-- ==== Sys2Proof/Word.lean ====
section
/-! DEFINITION. The word types of the block's ports and datapath (00_scope.md R8, R9, R10). -/

namespace Sys2Proof

/-- A value of the 64-bit datapath: S, an operand, a mixer value or response data (R8 `W`, R9 `ARG_WIDTH`
and `DATA_WIDTH`). Bit 0 is the least significant bit (R10). -/
abbrev Word := BitVec 64

/-- The command opcode, `cmd_op` (R9 `OP_WIDTH`). -/
abbrev Op := BitVec 3

/-- The response error code, `rsp_err` (R9 `ERR_WIDTH`). -/
abbrev ErrBits := BitVec 2

/-- A command word CW, op in the high bits and arg below it (30_encoding.md R60). -/
abbrev CommandWord := BitVec 67

end Sys2Proof
end

