-- ==== Sys2Proof/Syntax.lean ====
section
/-! DEFINITION. The commands of the block, one constructor per row of spec/opcode_table.json
(30_encoding.md R61). Every constructor keeps the whole 64-bit arg field of its command word, the commands
that ignore it included (R63, log 12), so that a command word and its instruction determine each other. -/

namespace Sys2Proof

/-- A command of the block. -/
inductive Instr where
  /-- NOP (40_control.md R81). Its arg is ignored. -/
  | nop (arg : Word)
  /-- SEED (40_control.md R82). Its arg is the seed. -/
  | seed (arg : Word)
  /-- NEXT_RAW (41_advance_mix.md R96). Its arg is ignored. -/
  | nextRaw (arg : Word)
  /-- NEXT_BND (42_accessors.md R111). Its arg is the exclusive upper bound n. -/
  | nextBnd (arg : Word)
  /-- NEXT_FLT (42_accessors.md R115). Its arg is ignored. -/
  | nextFlt (arg : Word)
  /-- Reserved op value 5 (40_control.md R84). Its arg is ignored. -/
  | reservedOp5 (arg : Word)
  /-- Reserved op value 6 (40_control.md R84). Its arg is ignored. -/
  | reservedOp6 (arg : Word)
  /-- Reserved op value 7 (40_control.md R84). Its arg is ignored. -/
  | reservedOp7 (arg : Word)
deriving DecidableEq, Repr

end Sys2Proof
end

