-- ==== Sys2Proof/WellFormed.lean ====
section
/-! DEFINITION. Which numbers are commands (30_encoding.md R60, R67). A command is given by its two fields or by
the one number CW = op · 2^64 + arg. The checks refuse a number that the ports cannot carry. An `Instr` holds
its arg in 64 bits already, so every term of `Instr` is well formed (R63: its bits may hold any value). -/

namespace Sys2Proof

/-- The two fields fit their ports: op in 3 bits and arg in 64 bits (R60). -/
def fieldsFit (op arg : Nat) : Bool := decide (op < 2 ^ 3) && decide (arg < 2 ^ 64)

/-- The number is a format-C command word: it fits 67 bits (R60). There is no longer command (R67). -/
def commandNumberFits (w : Nat) : Bool := decide (w < 2 ^ 67)

/-- A command is well formed when its fields fit their ports, with the op value of its row (R61). -/
def Instr.wellFormed : Instr → Bool
  | .nop arg => fieldsFit 0 arg.toNat
  | .seed arg => fieldsFit 1 arg.toNat
  | .nextRaw arg => fieldsFit 2 arg.toNat
  | .nextBnd arg => fieldsFit 3 arg.toNat
  | .nextFlt arg => fieldsFit 4 arg.toNat
  | .reservedOp5 arg => fieldsFit 5 arg.toNat
  | .reservedOp6 arg => fieldsFit 6 arg.toNat
  | .reservedOp7 arg => fieldsFit 7 arg.toNat

end Sys2Proof
end

