-- ==== Sys2Proof/Decode.lean ====
section
/-! DEFINITION. Decoding a command word into an instruction and encoding an instruction into its command word
(30_encoding.md R60, R61; spec/opcode_table.json). Decoding a 67-bit word is total: every op value has its row
(R61). A number that is no 67-bit word is rejected by name. -/

namespace Sys2Proof

/-- CW[66:64], the value of `cmd_op` (R60). -/
def opField (cw : CommandWord) : Op := cw.extractLsb' 64 3

/-- CW[63:0], the value of `cmd_arg` (R60). -/
def argField (cw : CommandWord) : Word := cw.extractLsb' 0 64

/-- CW = op, arg with op in the high bits (R60). -/
def commandWord (op : Op) (arg : Word) : CommandWord := op ++ arg

/-- The command that an op value selects, with its arg (R61). The last arm is op = 7: a 3-bit op has no other
value left. -/
def decodeFields (op : Op) (arg : Word) : Instr :=
  match op.toNat with
  | 0 => .nop arg
  | 1 => .seed arg
  | 2 => .nextRaw arg
  | 3 => .nextBnd arg
  | 4 => .nextFlt arg
  | 5 => .reservedOp5 arg
  | 6 => .reservedOp6 arg
  | _ => .reservedOp7 arg

/-- The command of a command word (R60, R61). -/
def decode (cw : CommandWord) : Instr := decodeFields (opField cw) (argField cw)

/-- Why a number is no command. -/
inductive DecodeError where
  /-- The number has a bit above CW[66], which no port carries (R60, R67). Safe: nothing runs. -/
  | widerThanCommandWord
deriving DecidableEq, Repr

/-- Decoding of any number at all: the number is read as CW = op · 2^64 + arg (R60), and one that does not fit
67 bits is rejected. -/
def decodeNumber (w : Nat) : Except DecodeError Instr :=
  if commandNumberFits w then .ok (decode (BitVec.ofNat 67 w)) else .error .widerThanCommandWord

/-- The op field of each command (R61). -/
def Instr.op : Instr → Op
  | .nop _ => 0b000#3
  | .seed _ => 0b001#3
  | .nextRaw _ => 0b010#3
  | .nextBnd _ => 0b011#3
  | .nextFlt _ => 0b100#3
  | .reservedOp5 _ => 0b101#3
  | .reservedOp6 _ => 0b110#3
  | .reservedOp7 _ => 0b111#3

/-- The arg field of each command (R60). -/
def Instr.arg : Instr → Word
  | .nop arg => arg
  | .seed arg => arg
  | .nextRaw arg => arg
  | .nextBnd arg => arg
  | .nextFlt arg => arg
  | .reservedOp5 arg => arg
  | .reservedOp6 arg => arg
  | .reservedOp7 arg => arg

/-- The command word of an instruction, field by field (R60). -/
def encode (i : Instr) : CommandWord := commandWord i.op i.arg

/-- The decoder on a word of the opcode table. The table numbers the bits of CW as R60 does, bit 0 the least
significant bit of arg, and the block has no byte order (20_memory.md R42), so `w` is CW itself. Bits at and
above `nbits` are 0 (log 13). -/
def decodeTableWord (nbits w : Nat) : Option Instr :=
  match decodeNumber (w % 2 ^ nbits) with
  | .ok i => some i
  | .error _ => none

/-- One row of spec/opcode_table.json: the bits that are fixed, and their values. -/
structure TableRow where
  fixedMask : CommandWord
  fixedBits : CommandWord
deriving DecidableEq, Repr

/-- A command word lies in a row when its fixed bits have the row's values. -/
def TableRow.covers (r : TableRow) (cw : CommandWord) : Bool := decide (cw &&& r.fixedMask = r.fixedBits)

/-- The row of the opcode table an instruction belongs to: the table's `mask` and `match` columns. -/
def Instr.tableRow : Instr → TableRow
  | .nop _ => ⟨0x70000000000000000#67, 0x00000000000000000#67⟩
  | .seed _ => ⟨0x70000000000000000#67, 0x10000000000000000#67⟩
  | .nextRaw _ => ⟨0x70000000000000000#67, 0x20000000000000000#67⟩
  | .nextBnd _ => ⟨0x70000000000000000#67, 0x30000000000000000#67⟩
  | .nextFlt _ => ⟨0x70000000000000000#67, 0x40000000000000000#67⟩
  | .reservedOp5 _ => ⟨0x70000000000000000#67, 0x50000000000000000#67⟩
  | .reservedOp6 _ => ⟨0x70000000000000000#67, 0x60000000000000000#67⟩
  | .reservedOp7 _ => ⟨0x70000000000000000#67, 0x70000000000000000#67⟩

/-- The rows of spec/opcode_table.json in the table's order. -/
def opcodeTable : List TableRow :=
  [Instr.nop 0, .seed 0, .nextRaw 0, .nextBnd 0, .nextFlt 0, .reservedOp5 0, .reservedOp6 0, .reservedOp7 0].map
    Instr.tableRow

end Sys2Proof
end

