-- ==== Sys2Proof/Config.lean ====
section
/-! DEFINITION. What an implementation of the block fixes and the spec leaves open: LATENCY
(00_scope.md R9, 92_eei_decisions.md D13, 93_implementation_defined.md U4). -/

namespace Sys2Proof.Config

/-- LATENCY − 1. It has no body, so no proof can see its value (log 2). The spec gives 3 as the reference
value of LATENCY and forbids assuming it (91_not_in_source.md N19). -/
opaque latencyPred : Nat

/-- LATENCY: the number of edges from the edge that accepts a command to the edge where the host samples its
response. R9 asks for an integer of 1 or more, which this form gives. -/
def latency : Nat := latencyPred + 1

end Sys2Proof.Config
end

