-- ==== Sys2Proof/Machine/State.lean ====
section
/-! DEFINITION. The state of the block as plain data (10_state.md R20 to R30), its reset value, and the reasons a
step can stop. -/

namespace Sys2Proof.Machine

/-- A response (R27): 64-bit data and a 2-bit error code. -/
structure Response where
  data : Word
  err : ErrBits
deriving DecidableEq, Repr

/-- One entry of the queue of responses in flight (R28, R29). `age` is the number of edges since the edge that
accepted its command. -/
structure InFlight where
  age : Nat
  rsp : Response
deriving DecidableEq, Repr

/-- The values of the four input ports at one rising edge (R26). `none` on a port is a value that is not a
defined 0/1 value: X, Z or undriven (70_reset_and_hazards.md R160, 93_implementation_defined.md U5, log 7). -/
structure Pins where
  rst : Option Bool
  cmdValid : Option Bool
  cmdOp : Option Op
  cmdArg : Option Word
deriving DecidableEq, Repr

/-- The error codes by name (60_exceptions.md R131). -/
inductive ErrCode where
  /-- ERR_NONE: the command succeeded. -/
  | none
  /-- ERR_INVALID_ARGUMENT: a NEXT_BND with bound 0 (R132). -/
  | invalidArgument
  /-- ERR_UNSEEDED: a NEXT command before any seed (R133). -/
  | unseeded
  /-- ERR_ILLEGAL_COMMAND: a reserved op value (40_control.md R84). -/
  | illegalCommand
deriving DecidableEq, Repr

/-- The state of the block between two rising edges. -/
structure State where
  /-- S and `seeded` as one optional value: `none` is `seeded` = 0, where S has no value, and `some v` is
  `seeded` = 1 with S = v (R20, R21, R22, R29; log 1). -/
  gen : Option Word
  /-- The responses accepted and not yet on the response port, oldest first (R28; log 4). -/
  inflight : List InFlight
  /-- `rsp_valid` as the host samples it at the coming edge (R26, R27). -/
  rspValid : Bool
  /-- `rsp_data` as the host samples it at the coming edge. -/
  rspData : Word
  /-- `rsp_err` as the host samples it at the coming edge. -/
  rspErr : ErrBits
  /-- What the host drives on the input ports at the coming edges, the next edge first. After the list the host
  presents no command (log 5). -/
  host : List Pins
  /-- The model's own record of the responses the host has sampled, in order (60_exceptions.md R137,
  70_reset_and_hazards.md R161; log 8). No part of the hardware. -/
  delivered : List Response
deriving DecidableEq, Repr

/-- Why the machine stops with a fault. -/
inductive Fault where
  /-- S was read while it has no value (93_implementation_defined.md U2). Raised by `State.readS` alone, and
  safe: nothing can rest on a value of S that the spec leaves unspecified. No command reaches it, because each
  one that reads S checks `seeded` first (R22). -/
  | unspecifiedStateRead
deriving DecidableEq, Repr

/-- Why the machine refuses to step. -/
inductive Refusal where
  /-- `exec` has no meaning for the instruction. No arm of `exec` answers it. Safe. -/
  | notModelled (mnemonic : String)
  /-- `rst` is not a defined 0/1 value at the edge (93 U5). Raised by `clockEdge`. Safe: such a run is unsaid
  (70_reset_and_hazards.md R161). -/
  | undefinedReset
  /-- `rst` = 0 and `cmd_valid` is not a defined 0/1 value (93 U5). Raised by `clockEdge`. Safe. -/
  | undefinedValid
  /-- A command is presented and `cmd_op` or `cmd_arg` is not a defined value, against the host's duty (R160).
  Raised by `clockEdge`. Safe. -/
  | undefinedCommand
deriving DecidableEq, Repr

/-- The block right after a reset edge (R30, 70_reset_and_hazards.md R151), with nothing presented by the host
and nothing sampled yet (log 5, log 8). -/
def State.reset : State :=
  ⟨none, [], false, 0#64, 0#2, [], []⟩

end Sys2Proof.Machine
end

