-- ==== Sys2Proof/Machine/Flags.lean ====
section
/-! DEFINITION. The one flag of the block, `seeded` (10_state.md R21), and the error codes with the checks that
raise them (60_exceptions.md R131 to R133). -/

namespace Sys2Proof.Machine

/-- The flag `seeded`: 1 when S holds a value (R21, R22). -/
def State.seeded (s : State) : Bool := s.gen.isSome

/-- The value of `rsp_err` for each error (R131). -/
def ErrCode.bits : ErrCode → ErrBits
  | .none => 0b00#2
  | .invalidArgument => 0b01#2
  | .unseeded => 0b10#2
  | .illegalCommand => 0b11#2

/-- The bound check of NEXT_BND: the value 0 stands for every bound n ≤ 0 (30_encoding.md R65, R132). -/
def boundInvalid (n : Word) : Bool := decide (n = 0#64)

end Sys2Proof.Machine
end

