-- ==== Sys2Proof/Machine/Mixer.lean ====
section
/-! DEFINITION. The 64-bit adder and the three-round mixer as pure functions (41_advance_mix.md R91 to R95).
Arithmetic on `Word` wraps mod 2^64 and `>>>` shifts zeros in, as 00_scope.md R10, R11 and R12 ask. -/

namespace Sys2Proof.Machine

/-- GOLDEN_GAMMA (00_scope.md R8). -/
def goldenGamma : Word := 0x9E3779B97F4A7C15#64

/-- MIX_MUL1 (R8). -/
def mixMul1 : Word := 0xBF58476D1CE4E5B9#64

/-- MIX_MUL2 (R8). -/
def mixMul2 : Word := 0x94D049BB133111EB#64

/-- The adder: (S + GOLDEN_GAMMA) mod 2^64, the carry out of bit 63 discarded (R91, R97). -/
def weylStep (s : Word) : Word := s + goldenGamma

/-- The xor-shift of a mixer round: z xor (z >> k), a logical shift (R92). -/
def xorShift (k : Nat) (z : Word) : Word := z ^^^ (z >>> k)

/-- Mixer round 1, with MIX_SH1 = 30 (R92). -/
def round1 (z0 : Word) : Word := xorShift 30 z0 * mixMul1

/-- Mixer round 2, with MIX_SH2 = 27 (R93). -/
def round2 (z1 : Word) : Word := xorShift 27 z1 * mixMul2

/-- Mixer round 3, with MIX_SH3 = 31 and no multiplication (R94). -/
def round3 (z2 : Word) : Word := xorShift 31 z2

/-- The mixer (R95). -/
def mix64 (x : Word) : Word := round3 (round2 (round1 x))

end Sys2Proof.Machine
end

