-- ==== Sys2Proof/Machine/Float.lean ====
section
/-! DEFINITION. The binary64 encoding of m / 2^53 (42_accessors.md R115, R116). -/

namespace Sys2Proof.Machine

/-- raw >> 11 as a 53-bit number: m = raw[63:11] (R115, FLOAT_SHIFT = 11). -/
def floatMantissa (raw : Word) : BitVec 53 := (raw >>> 11).setWidth 53

/-- The highest index at or below `k` whose bit of `m` is set, and 0 where there is none. -/
def highestSetBitFrom (m : BitVec 53) : Nat → Nat
  | 0 => 0
  | k + 1 => if m.getLsbD (k + 1) then k + 1 else highestSetBitFrom m k

/-- The index of the highest set bit of `m` (R116 `e`). -/
def highestSetBit (m : BitVec 53) : Nat := highestSetBitFrom m 52

/-- The biased exponent, 1023 + (e − 53) = e + 970 (R116 `bexp`). -/
def biasedExponent (e : Nat) : BitVec 11 := BitVec.ofNat 11 (e + 970)

/-- The bits of `m` below its leading 1, left-aligned in 52 bits (R116 `frac`). -/
def fractionBits (m : BitVec 53) (e : Nat) : BitVec 52 := (m <<< (52 - e)).setWidth 52

/-- `F64Bits(m)` (R116): sign 0, biased exponent, fraction, and +0.0 for m = 0. -/
def f64Bits (m : BitVec 53) : Word :=
  if m = 0#53 then 0#64
  else 0#1 ++ biasedExponent (highestSetBit m) ++ fractionBits m (highestSetBit m)

end Sys2Proof.Machine
end

