-- ==== Sys2Proof/Machine/Operands.lean ====
section
/-! DEFINITION. The operand forms of the commands and the output multiplexer (30_encoding.md R63 to R65,
42_accessors.md R110). -/

namespace Sys2Proof.Machine

/-- The operand of SEED: arg whole, an unsigned 64-bit integer, seed mod 2^64 (30_encoding.md R63, R64). -/
def seedOperand (arg : Word) : Word := arg

/-- The operand of NEXT_BND: arg whole, the bound n as an unsigned 64-bit integer (R63, R65). -/
def boundOperand (arg : Word) : Word := arg

/-- What the output multiplexer selects (42_accessors.md R110). -/
inductive MuxSelect where
  /-- The constant 0: SEED, and every command that fails. -/
  | zero
  /-- The raw 64-bit value. -/
  | raw
  /-- The bounded integer, raw mod n. -/
  | bounded (n : Word)
  /-- The bounded float, as a binary64 bit pattern. -/
  | float
deriving DecidableEq, Repr

/-- The plain remainder raw mod n, zero-extended to 64 bits (R111, R112, R114). It is used for n ≠ 0 only: the
remainder unit is not used when n = 0 (R113). -/
def boundedInteger (raw n : Word) : Word := raw % n

/-- The output multiplexer's data for a mixer output `raw` (R110). -/
def outputMux (sel : MuxSelect) (raw : Word) : Word :=
  match sel with
  | .zero => 0#64
  | .raw => raw
  | .bounded n => boundedInteger raw n
  | .float => f64Bits (floatMantissa raw)

end Sys2Proof.Machine
end

