-- ==== Sys2Proof/Machine/Ops.lean ====
section
/-! DEFINITION. The operations that the commands and the clock edge are built from: reading and writing S, the
`Advance` of 41_advance_mix.md R91, responding (00_scope.md R10), reporting an error (60_exceptions.md R130,
R136), and what an edge does to the response queue and the response port (10_state.md R27, R28). -/

namespace Sys2Proof.Machine

/-! ### The register S -/

/-- S as a value. While `seeded` = 0 it has none, and reading it is a fault (10_state.md R22,
93_implementation_defined.md U2). -/
def State.readS (s : State) : Except Fault Word :=
  match s.gen with
  | some v => .ok v
  | none => .error .unspecifiedStateRead

/-- S <- v with `seeded` = 1 after it. -/
def State.writeS (s : State) (v : Word) : State := { s with gen := some v }

/-- `Advance()`: S <- (S + GOLDEN_GAMMA) mod 2^64, and the mix of the NEW S is returned (R91). -/
def advance (s : State) : Except Fault (Word × State) :=
  match s.readS with
  | .ok v => .ok (mix64 (weylStep v), s.writeS (weylStep v))
  | .error f => .error f

/-! ### Responses -/

/-- `respond(data, err)`: one response enters the response stream, at age 0 (00_scope.md R10, 10_state.md R28). -/
def respond (s : State) (data : Word) (err : ErrCode) : State :=
  { s with inflight := s.inflight ++ [⟨0, ⟨data, err.bits⟩⟩] }

/-- Reporting an error, the block's whole exception mechanism: one response with the multiplexer's constant 0
as data and the code, and no other effect (60_exceptions.md R130, R131, R134, R136). -/
def reportError (s : State) (err : ErrCode) : State := respond s (outputMux .zero 0#64) err

/-- The body that the three NEXT commands share: the `seeded` check, one `Advance`, and the response with the
multiplexer's selection (40_control.md R80). -/
def nextValue (sel : MuxSelect) (s : State) : Host.Outcome State Fault Refusal :=
  if s.seeded then
    match advance s with
    | .ok (raw, t) => .next (respond t (outputMux sel raw) .none)
    | .error f => .fault f
  else .next (reportError s .unseeded)

/-! ### The response queue and the response port at an edge -/

/-- The response port with this response on it, or with none: then `rsp_valid`, `rsp_data` and `rsp_err` are all 0
(10_state.md R27). -/
def setPort (s : State) (r : Option Response) : State :=
  { s with
    rspValid := r.isSome
    rspData := match r with | some v => v.data | none => 0#64
    rspErr := match r with | some v => v.err | none => 0#2 }

/-- The response on the response port, if there is one (R27). -/
def portResponse (s : State) : List Response := if s.rspValid then [⟨s.rspData, s.rspErr⟩] else []

/-- The host samples the response port at the edge: a response on it has been delivered (R27,
70_reset_and_hazards.md R157, R158). -/
def samplePort (s : State) : State := { s with delivered := s.delivered ++ portResponse s }

/-- One edge has passed since each queued response was accepted, one more than before. -/
def ageQueue (s : State) : State := { s with inflight := s.inflight.map fun e => ⟨e.age + 1, e.rsp⟩ }

/-- The input ports move on to what the host drives at the edge after this one. -/
def consumePins (s : State) : State := { s with host := s.host.tail }

/-- What every edge begins with, whatever is on the input ports. -/
def beginEdge (s : State) : State := consumePins (ageQueue (samplePort s))

/-- The response that goes onto the port after an edge, for LATENCY = `latency`, and the queue without it. A
response accepted at edge k is on the port from edge k + LATENCY − 1, where its age is LATENCY − 1, to edge
k + LATENCY, where the host samples it (70_reset_and_hazards.md R157; log 3, log 4, log 10). -/
def splitDue (latency : Nat) : List InFlight → Option Response × List InFlight
  | [] => (none, [])
  | e :: rest => if latency ≤ e.age + 1 then (some e.rsp, rest) else (none, e :: rest)

/-- The end of an edge that is no reset edge: the response port is driven from the queue. -/
def drivePort (latency : Nat) (s : State) : State :=
  setPort { s with inflight := (splitDue latency s.inflight).2 } (splitDue latency s.inflight).1

/-- A reset edge (70_reset_and_hazards.md R151, R158): `seeded` <- 0, S without a value, the responses in flight
discarded, the response port cleared. -/
def resetBlock (s : State) : State := setPort { s with gen := none, inflight := [] } none

end Sys2Proof.Machine
end

