-- ==== Sys2Proof/Machine/Accessors.lean ====
section
/-! DEFINITION. NEXT_BND and NEXT_FLT (42_accessors.md R111, R115). -/

namespace Sys2Proof.Machine

/-- NEXT_BND (R111): the bound check comes first and needs no state (60_exceptions.md R135), so a failed bound
consumes no value (R134, log 11). Otherwise as NEXT_RAW with raw mod n. -/
def execNextBnd (arg : Word) (s : State) : Host.Outcome State Fault Refusal :=
  if boundInvalid (boundOperand arg) then .next (reportError s .invalidArgument)
  else nextValue (.bounded (boundOperand arg)) s

/-- NEXT_FLT (R115): as NEXT_RAW with the binary64 bits of (raw >> 11) / 2^53. -/
def execNextFlt (_arg : Word) (s : State) : Host.Outcome State Fault Refusal := nextValue .float s

end Sys2Proof.Machine
end

