-- ==== Sys2Proof/Machine/Control.lean ====
section
/-! DEFINITION. NOP, SEED and the reserved commands (40_control.md R81 to R84). -/

namespace Sys2Proof.Machine

/-- NOP (R81): no state change and no response. -/
def execNop (_arg : Word) (s : State) : Host.Outcome State Fault Refusal := .next s

/-- SEED (R82, R83): S <- arg, `seeded` <- 1, respond (0, ERR_NONE). It does not mix. -/
def execSeed (arg : Word) (s : State) : Host.Outcome State Fault Refusal :=
  .next (respond (s.writeS (seedOperand arg)) (outputMux .zero 0#64) .none)

/-- Reserved op 5 (R84): ILLEGAL_COMMAND, whatever the state and arg. -/
def execReservedOp5 (_arg : Word) (s : State) : Host.Outcome State Fault Refusal :=
  .next (reportError s .illegalCommand)

/-- Reserved op 6 (R84). -/
def execReservedOp6 (_arg : Word) (s : State) : Host.Outcome State Fault Refusal :=
  .next (reportError s .illegalCommand)

/-- Reserved op 7 (R84). -/
def execReservedOp7 (_arg : Word) (s : State) : Host.Outcome State Fault Refusal :=
  .next (reportError s .illegalCommand)

end Sys2Proof.Machine
end

