-- ==== Sys2Proof/Machine/NextRaw.lean ====
section
/-! DEFINITION. NEXT_RAW (41_advance_mix.md R96). -/

namespace Sys2Proof.Machine

/-- NEXT_RAW (R96): UNSEEDED while `seeded` = 0. Otherwise one `Advance`, and its raw value is the response. -/
def execNextRaw (_arg : Word) (s : State) : Host.Outcome State Fault Refusal := nextValue .raw s

end Sys2Proof.Machine
end

