-- ==== Sys2Proof/Machine/Dispatch.lean ====
section
/-! DEFINITION. The meaning of each command (40_control.md R80), one arm per constructor. -/

namespace Sys2Proof.Machine

/-- The architectural step on one accepted command (R80). -/
def exec (i : Instr) (s : State) : Host.Outcome State Fault Refusal :=
  match i with
  | .nop arg => Sys2Proof.Machine.execNop arg s
  | .seed arg => Sys2Proof.Machine.execSeed arg s
  | .nextRaw arg => Sys2Proof.Machine.execNextRaw arg s
  | .nextBnd arg => Sys2Proof.Machine.execNextBnd arg s
  | .nextFlt arg => Sys2Proof.Machine.execNextFlt arg s
  | .reservedOp5 arg => Sys2Proof.Machine.execReservedOp5 arg s
  | .reservedOp6 arg => Sys2Proof.Machine.execReservedOp6 arg s
  | .reservedOp7 arg => Sys2Proof.Machine.execReservedOp7 arg s

end Sys2Proof.Machine
end

