-- ==== Sys2Proof/Machine/Edge.lean ====
section
/-! DEFINITION. One rising edge of `clk` (10_state.md R26, 70_reset_and_hazards.md R150 to R158), and the values
a host drives on the input ports. LATENCY is an argument here (93_implementation_defined.md U4); `step` supplies
the machine's own. -/

namespace Sys2Proof.Machine

/-- `rst` = 0 and `cmd_valid` = 0: no command (30_encoding.md R62). The op and arg ports need no value then (R160). -/
def idlePins : Pins := ⟨some false, some false, none, none⟩

/-- `rst` = 1: a reset edge. The other ports are ignored (R150). -/
def resetPins : Pins := ⟨some true, none, none, none⟩

/-- A command presented whole in one cycle (30_encoding.md R60). -/
def commandPins (op : Op) (arg : Word) : Pins := ⟨some false, some true, some op, some arg⟩

/-- A command presented without defined op and arg values, against the host's duty (R160). -/
def undrivenCommandPins : Pins := ⟨some false, some true, none, none⟩

/-- The input ports for the number CW. The ports carry 67 bits, so a wider number has no values there (log 13). -/
def pinsOfNumber (w : Nat) : Pins :=
  if commandNumberFits w then commandPins (opField (BitVec.ofNat 67 w)) (argField (BitVec.ofNat 67 w))
  else undrivenCommandPins

/-- The input ports at the coming edge. After the end of its schedule the host presents no command (log 5). -/
def State.pins (s : State) : Pins := s.host.headD idlePins

/-- An accepting edge (R26): the command is executed as one atomic step, then the response port is driven. -/
def acceptCommand (latency : Nat) (op : Op) (arg : Word) (s : State) : Host.Outcome State Fault Refusal :=
  match exec (decode (commandWord op arg)) s with
  | .next t => .next (drivePort latency t)
  | .fault f => .fault f
  | .refused r => .refused r

/-- One rising edge with LATENCY = `latency`. The host samples the response port first (R157, R158). Then a
reset edge resets, an edge with `cmd_valid` = 1 accepts a command, and an edge with `cmd_valid` = 0 changes
nothing but the passing of time (R26, R62, R150). An input that is not a defined value where one is needed puts
the run outside the spec (R160, R161), and the edge is refused. -/
def clockEdge (latency : Nat) (s : State) : Host.Outcome State Fault Refusal :=
  match s.pins.rst with
  | none => .refused .undefinedReset
  | some true => .next (resetBlock (beginEdge s))
  | some false =>
    match s.pins.cmdValid with
    | none => .refused .undefinedValid
    | some false => .next (drivePort latency (beginEdge s))
    | some true =>
      match s.pins.cmdOp, s.pins.cmdArg with
      | some op, some arg => acceptCommand latency op arg (beginEdge s)
      | none, _ => .refused .undefinedCommand
      | some _, none => .refused .undefinedCommand

/-- The host presents these values at the coming edge, in place of what it would have driven there. -/
def State.present (s : State) (p : Pins) : State := { s with host := p :: s.host.tail }

end Sys2Proof.Machine
end

