-- ==== Sys2Proof/Machine/Step.lean ====
section
/-! DEFINITION. The step of the machine: one rising edge of `clk` with the block's own LATENCY
(10_state.md R26). There is no program counter (R24): the command an edge runs is the one the host presents. -/

namespace Sys2Proof.Machine

/-- One rising edge of the block. -/
def step (s : State) : Host.Outcome State Fault Refusal := clockEdge Config.latency s

/-- The state in which the host presents the command word `w` at the coming edge (log 6). Bits at and above
`nbits` are 0. -/
def State.withFetchWord (s : State) (nbits w : Nat) : State := s.present (pinsOfNumber (w % 2 ^ nbits))

end Sys2Proof.Machine
end

