-- ==== Sys2Proof/Machine/Assembly.lean ====
section
/-! DEFINITION. The assembler lines of 30_encoding.md R68, as text and as data, and the input port values that
each line stands for. -/

namespace Sys2Proof.Machine

/-- A line of a test program (R68). Its numbers are not yet known to fit the ports. -/
inductive AsmLine where
  /-- `NOP` -/
  | nop
  /-- `SEED imm` -/
  | seed (imm : Nat)
  /-- `NEXT_RAW` -/
  | nextRaw
  /-- `NEXT_BND imm` -/
  | nextBnd (imm : Nat)
  /-- `NEXT_FLT` -/
  | nextFlt
  /-- `.cmd op, imm`: any raw word, the reserved op values included. -/
  | cmd (op imm : Nat)
  /-- `RESET`: no command; it asserts `rst` for one cycle. -/
  | reset
deriving DecidableEq, Repr

/-- The op and arg numbers of a line, and `none` for `RESET`, which is no command (R68). -/
def AsmLine.fields : AsmLine → Option (Nat × Nat)
  | .nop => some (0, 0)
  | .seed imm => some (1, imm)
  | .nextRaw => some (2, 0)
  | .nextBnd imm => some (3, imm)
  | .nextFlt => some (4, 0)
  | .cmd op imm => some (op, imm)
  | .reset => none

/-- The numbers of a line must lie in [0, 2^64 − 1], and an op must be an op value (R68, R60). -/
def AsmLine.wellFormed (l : AsmLine) : Bool :=
  match l.fields with
  | some (op, imm) => fieldsFit op imm
  | none => true

/-- The input ports for a line, and `none` for a line whose numbers do not fit. -/
def AsmLine.pins (l : AsmLine) : Option Pins :=
  if l.wellFormed then
    match l.fields with
    | some (op, imm) => some (commandPins (BitVec.ofNat 3 op) (BitVec.ofNat 64 imm))
    | none => some resetPins
  else none

/-- The value of a digit in a base of at most 16, letters in either case. -/
def digitValue (base : Nat) (c : Char) : Option Nat :=
  let v := if '0' ≤ c ∧ c ≤ '9' then c.toNat - '0'.toNat
    else if 'a' ≤ c ∧ c ≤ 'f' then c.toNat - 'a'.toNat + 10
    else if 'A' ≤ c ∧ c ≤ 'F' then c.toNat - 'A'.toNat + 10
    else base
  if v < base then some v else none

/-- The number that a list of digits writes, from the value of the digits before them. -/
def digitsValue (base : Nat) : Nat → List Char → Option Nat
  | acc, [] => some acc
  | acc, c :: cs =>
    match digitValue base c with
    | some d => digitsValue base (acc * base + d) cs
    | none => none

/-- A number: decimal, or hex with `0x` before it (R68). -/
def parseNumber : List Char → Option Nat
  | [] => none
  | '0' :: 'x' :: [] => none
  | '0' :: 'x' :: c :: cs => digitsValue 16 0 (c :: cs)
  | c :: cs => digitsValue 10 0 (c :: cs)

/-- The text of a line before `;` (R68: a line may end with `; comment`). -/
def stripComment (line : List Char) : List Char := line.takeWhile (· ≠ ';')

/-- The words of a line, which blanks separate (log 18). -/
def lineWords (line : List Char) : List (List Char) := (line.splitOn ' ').filter (· ≠ [])

/-- The line that a list of words writes (R68). The comma of `.cmd op, imm` ends the word of the op. -/
def parseWords : List (List Char) → Option AsmLine
  | [m] =>
    if m = "NOP".toList then some .nop
    else if m = "NEXT_RAW".toList then some .nextRaw
    else if m = "NEXT_FLT".toList then some .nextFlt
    else if m = "RESET".toList then some .reset
    else none
  | [m, n] =>
    if m = "SEED".toList then (parseNumber n).map .seed
    else if m = "NEXT_BND".toList then (parseNumber n).map .nextBnd
    else none
  | [m, o, n] =>
    if m = ".cmd".toList ∧ o.getLast? = some ',' then
      (parseNumber o.dropLast).bind fun op => (parseNumber n).map fun imm => .cmd op imm
    else none
  | _ => none

/-- A line of text (R68). A text that is no line of the syntax gives none, and so does a line whose numbers do
not fit. -/
def parseLine (text : List Char) : Option AsmLine :=
  (parseWords (lineWords (stripComment text))).filter AsmLine.wellFormed

end Sys2Proof.Machine
end

