-- ==== Sys2Proof/Machine/Software.lean ====
section
/-! DEFINITION. The host's mapping of the source's software operations to commands (30_encoding.md R64, R65, R69). -/

namespace Sys2Proof.Machine

/-- The operations of the source's software generator (00_scope.md R4). A seed and a bound are integers of any
size. -/
inductive SoftwareOp where
  /-- Construct(seed). -/
  | construct (seed : Int)
  /-- Next raw value. -/
  | nextRaw
  /-- bounded_integer(n). -/
  | boundedInteger (n : Int)
  /-- uniform_float(). -/
  | uniformFloat
deriving DecidableEq, Repr

/-- seed mod 2^64 (R64): the two's-complement pattern of a negative seed, the low 64 bits of a large one. -/
def seedOfInteger (seed : Int) : Word := BitVec.ofInt 64 seed

/-- The command for bounded_integer(n) (R69): n ≤ 0 is presented as the bound 0, and n ≥ 2^64 as NEXT_RAW. -/
def boundCommand (n : Int) : Instr :=
  if n ≤ 0 then .nextBnd 0#64
  else if n < 2 ^ 64 then .nextBnd (BitVec.ofInt 64 n)
  else .nextRaw 0#64

/-- The one command for each software operation (R69). An ignored arg is written 0, as in R68. -/
def SoftwareOp.command : SoftwareOp → Instr
  | .construct seed => .seed (seedOfInteger seed)
  | .nextRaw => .nextRaw 0#64
  | .boundedInteger n => boundCommand n
  | .uniformFloat => .nextFlt 0#64

end Sys2Proof.Machine
end

