-- ==== Sys2Proof/Safety.lean ====
section
/-! DEFINITION. The terms in which claims about the block are stated: the pure step of 40_control.md R80, runs
and what they deliver (70_reset_and_hazards.md R157, R161), the pipeline invariant (10_state.md R27, R28), the
value of a binary64 pattern, and the source's software generator on exact integers. No step of the machine uses
this file. -/

namespace Sys2Proof.Safety

open Sys2Proof.Machine

/-! ### The step as a pure function -/

/-- The part that the three NEXT commands share in 40_control.md R80: UNSEEDED while `seeded` = 0, and otherwise
the Weyl step and the reduced raw value. -/
def drawnBy (reduce : Word → Word) (gen : Option Word) : Option Word × Option (Word × ErrCode) :=
  match gen with
  | none => (none, some (0#64, .unseeded))
  | some v => (some (weylStep v), some (reduce (mix64 (weylStep v)), .none))

/-- `Execute(op, arg)` as the pure function (state, command) -> (state', optional response) of 40_control.md R80
and 10_state.md R29, op value by op value as R80 writes it. -/
def execute (op : Op) (arg : Word) (gen : Option Word) : Option Word × Option (Word × ErrCode) :=
  match op.toNat with
  | 0 => (gen, none)
  | 1 => (some arg, some (0#64, .none))
  | 2 => drawnBy (fun raw => raw) gen
  | 3 => if arg = 0#64 then (gen, some (0#64, .invalidArgument)) else drawnBy (fun raw => raw % arg) gen
  | 4 => drawnBy (fun raw => f64Bits (floatMantissa raw)) gen
  | _ => (gen, some (0#64, .illegalCommand))

/-- A response of `execute` as the response port carries it (60_exceptions.md R131). -/
def toResponse (r : Word × ErrCode) : Response := ⟨r.1, r.2.bits⟩

/-- An instruction that is a NEXT command, for which the bound check passes (40_control.md R80). -/
def isDrawing : Instr → Bool
  | .nextRaw _ => true
  | .nextBnd n => !boundInvalid n
  | .nextFlt _ => true
  | .nop _ | .seed _ | .reservedOp5 _ | .reservedOp6 _ | .reservedOp7 _ => false

/-- An instruction that gives a response: every command but NOP (10_state.md R27). -/
def isAnswered : Instr → Bool
  | .nop _ => false
  | .seed _ | .nextRaw _ | .nextBnd _ | .nextFlt _ | .reservedOp5 _ | .reservedOp6 _ | .reservedOp7 _ => true

/-- SEED. -/
def isSeed : Instr → Bool
  | .seed _ => true
  | .nop _ | .nextRaw _ | .nextBnd _ | .nextFlt _ | .reservedOp5 _ | .reservedOp6 _ | .reservedOp7 _ => false

/-- Commands accepted one after the other, with no edge between them modelled: the untimed run. -/
def execList : List Instr → State → Host.Outcome State Fault Refusal
  | [], s => .next s
  | i :: is, s =>
    match exec i s with
    | .next t => execList is t
    | .fault f => .fault f
    | .refused r => .refused r

/-- The raw values of the stream from S = `v`: the k-th is Mix64 (v + k · GOLDEN_GAMMA), k = 1, 2, …
(41_advance_mix.md R100). -/
def streamValue (v : Word) (k : Nat) : Word := mix64 (v + BitVec.ofNat 64 k * goldenGamma)

/-! ### Edges and runs -/

/-- The input ports have the values an edge needs (70_reset_and_hazards.md R150, R160): `rst` always, `cmd_valid`
at an edge that is no reset edge, op and arg at an accepting edge. -/
def definedPins (p : Pins) : Bool :=
  match p.rst, p.cmdValid, p.cmdOp, p.cmdArg with
  | some true, _, _, _ => true
  | some false, some false, _, _ => true
  | some false, some true, some _, some _ => true
  | _, _, _, _ => false

/-- Defined input ports with `rst` = 0. -/
def runningPins (p : Pins) : Bool := definedPins p && p.rst == some false

/-- What one edge does to (S, seeded), and the response of the command it accepts, if any
(10_state.md R26, 40_control.md R80, 70_reset_and_hazards.md R151). -/
def edgeEffect (p : Pins) (gen : Option Word) : Option Word × Option Response :=
  match p.rst, p.cmdValid, p.cmdOp, p.cmdArg with
  | some false, some true, some op, some arg => ((execute op arg gen).1, (execute op arg gen).2.map toResponse)
  | some true, _, _, _ => (none, none)
  | _, _, _, _ => (gen, none)

/-- (S, seeded) after a list of edges. -/
def genAfter : List Pins → Option Word → Option Word
  | [], g => g
  | p :: ps, g => genAfter ps (edgeEffect p g).1

/-- The response of each edge of a list, in order, `none` at an edge that has none. -/
def answers : List Pins → Option Word → List (Option Response)
  | [], _ => []
  | p :: ps, g => (edgeEffect p g).2 :: answers ps (edgeEffect p g).1

/-- No reset edge stands between the edge `j` of a list, where a command is accepted, and the edge where its
response is sampled, so the response is not discarded (70_reset_and_hazards.md R158). -/
def survives (latency : Nat) (ps : List Pins) (j : Nat) : Bool :=
  ((ps.drop (j + 1)).take (latency - 1)).all fun p => p.rst != some true

/-- The responses the host has sampled when the edges `ps` have passed: those of the commands accepted LATENCY
edges or more before the end and not discarded, in order (70_reset_and_hazards.md R157, R158). -/
def sampledBy (latency : Nat) (ps : List Pins) (g : Option Word) : List Response :=
  (List.range (ps.length - latency)).filterMap fun j =>
    if survives latency ps j then (answers ps g)[j]?.join else none

/-- The values on the input ports at the next `n` edges. -/
def schedule : Nat → State → List Pins
  | 0, _ => []
  | n + 1, s => s.pins :: schedule n (consumePins s)

/-- The machine with a LATENCY of one's choice. -/
def coreAt (latency : Nat) : Host.Core :=
  { State := State, Fault := Fault, Refusal := Refusal, step := clockEdge latency, reset := State.reset }

/-- Every response the block has given so far, in order: delivered, on the port, in flight. -/
def issued (s : State) : List Response := s.delivered ++ portResponse s ++ s.inflight.map InFlight.rsp

/-- No response on the port and none in flight. -/
def quiet (s : State) : Prop :=
  s.inflight = [] ∧ s.rspValid = false ∧ s.rspData = 0#64 ∧ s.rspErr = 0#2

/-! ### The invariant of the response pipeline -/

/-- A response is well formed when a failed command's data is 0 (60_exceptions.md R131). -/
def responseOk (r : Response) : Prop := r.err = 0#2 ∨ r.data = 0#64

/-- The response pipeline between two edges: older entries are strictly older, none is due yet, every response
is well formed, and a port with no response is all 0 (10_state.md R27, R28, 70_reset_and_hazards.md R157). -/
structure PipelineOk (latency : Nat) (s : State) : Prop where
  inOrder : (s.inflight.map InFlight.age).Pairwise (· > ·)
  notDue : ∀ e ∈ s.inflight, e.age + 1 < latency
  queueOk : ∀ e ∈ s.inflight, responseOk e.rsp
  portOk : responseOk ⟨s.rspData, s.rspErr⟩
  idlePort : s.rspValid = false → s.rspData = 0#64 ∧ s.rspErr = 0#2

/-! ### The value of a binary64 pattern -/

/-- The rational value of an IEEE 754 binary64 pattern, and `none` for an infinity or a NaN (42_accessors.md R116
for the layout; its subnormal and exponent-2047 cases are log 15). -/
def binary64Value (w : Word) : Option ℚ :=
  let sign : ℚ := if w.getLsbD 63 then -1 else 1
  let exponent := (w.extractLsb' 52 11).toNat
  let fraction := (w.extractLsb' 0 52).toNat
  if exponent = 2047 then none
  else if exponent = 0 then some (sign * fraction / 2 ^ 1074)
  else some (sign * (1 + fraction / 2 ^ 52) * 2 ^ ((exponent : ℤ) - 1023))

/-! ### The source's software generator on exact integers -/

/-- The mix of a state on natural numbers, as the source writes it (41_advance_mix.md R92 to R95). -/
def softwareMix (z0 : Nat) : Nat :=
  let z1 := (z0 ^^^ (z0 / 2 ^ 30)) * 0xBF58476D1CE4E5B9 % 2 ^ 64
  let z2 := (z1 ^^^ (z1 / 2 ^ 27)) * 0x94D049BB133111EB % 2 ^ 64
  z2 ^^^ (z2 / 2 ^ 31)

/-- state := (state + GOLDEN_GAMMA) mod 2^64 (41_advance_mix.md R91). -/
def softwareAdvance (state : Nat) : Nat := (state + 0x9E3779B97F4A7C15) % 2 ^ 64

/-- What a call of the software generator gives its caller. -/
inductive SoftwareResult where
  /-- A generator has been built. -/
  | constructed
  /-- An integer. -/
  | integer (v : Int)
  /-- A float, by its value. -/
  | float (v : ℚ)
  /-- The error `InvalidArgument`. -/
  | invalidArgument

/-- One call of the software generator with state `state`: the state after it and the result
(41_advance_mix.md R91, 42_accessors.md R111, R115, 30_encoding.md R64). -/
def softwareCall (op : SoftwareOp) (state : Nat) : Nat × SoftwareResult :=
  match op with
  | .construct seed => ((seed % 2 ^ 64).toNat, .constructed)
  | .nextRaw => (softwareAdvance state, .integer (softwareMix (softwareAdvance state)))
  | .boundedInteger n =>
    if n ≤ 0 then (state, .invalidArgument)
    else (softwareAdvance state, .integer ((softwareMix (softwareAdvance state) : Int) % n))
  | .uniformFloat =>
    (softwareAdvance state, .float (((softwareMix (softwareAdvance state) / 2 ^ 11 : Nat) : ℚ) / 2 ^ 53))

/-- The calls of a program, one after the other, with their results. -/
def softwareRun : List SoftwareOp → Nat → Nat × List SoftwareResult
  | [], state => (state, [])
  | op :: ops, state =>
    ((softwareRun ops (softwareCall op state).1).1,
      (softwareCall op state).2 :: (softwareRun ops (softwareCall op state).1).2)

/-- A response reports a result of the software generator: ERR_NONE with the value, or ERR_INVALID_ARGUMENT
(42_accessors.md R110, 60_exceptions.md R131). -/
def reports (r : SoftwareResult) (rsp : Response) : Prop :=
  match r with
  | .constructed => rsp = ⟨0#64, 0b00#2⟩
  | .integer v => rsp.err = 0b00#2 ∧ (rsp.data.toNat : Int) = v
  | .float v => rsp.err = 0b00#2 ∧ binary64Value rsp.data = some v
  | .invalidArgument => rsp = ⟨0#64, 0b01#2⟩

end Sys2Proof.Safety
end

