-- ==== Sys2Proof/Certificates/Slice0/Obligations.lean ====
section
/-! DEFINITION. The statements about the block, for the provers. Each docstring names the rule of spec/ it
formalises. A statement about timing holds for whatever LATENCY the block has: `Config.latency` has no body. -/

open Sys2Proof Sys2Proof.Machine Sys2Proof.Safety

/-! ### Encoding -/

/-- 30_encoding.md R60, R61: a command word and its instruction determine each other. -/
def Obligations.DecodeAndEncodeAreInverse : Prop :=
  (∀ i : Instr, decode (encode i) = i) ∧ ∀ cw : CommandWord, encode (decode cw) = cw

/-- R60: a number is CW = op · 2^64 + arg of one command, or it has more than 67 bits. The model rejects the
latter by name (log 13). -/
def Obligations.NumbersDecodeByTheirFields : Prop :=
  (∀ w : Nat, w < 2 ^ 67 → ∃ i : Instr, decodeNumber w = .ok i ∧ w = i.op.toNat * 2 ^ 64 + i.arg.toNat ∧
    opField (encode i) = i.op ∧ argField (encode i) = i.arg) ∧
  (∀ w : Nat, 2 ^ 67 ≤ w → decodeNumber w = .error .widerThanCommandWord) ∧
  decodeNumber 0x1000000000135025E = .ok (.seed 0x000000000135025E#64)

/-- R61: every command word lies in exactly one row of the opcode table, the row of its instruction. -/
def Obligations.CommandWordsLieInOneRow : Prop :=
  ∀ cw : CommandWord, opcodeTable.filter (fun r => r.covers cw) = [(decode cw).tableRow]

/-- Command words written out in 95_test_vectors.md (V-CTL, P1, P3) decode to the commands they stand for. -/
def Obligations.WrittenOutWordsDecode : Prop :=
  decode 0x00000000000001234#67 = .nop 0x1234#64 ∧
  decode 0x1FFFFFFFFFFFFFFFF#67 = .seed 0xFFFFFFFFFFFFFFFF#64 ∧
  decode 0x2000000000000FFFF#67 = .nextRaw 0xFFFF#64 ∧
  decode 0x30000000000000064#67 = .nextBnd 100#64 ∧
  decode 0x40000000000000000#67 = .nextFlt 0#64 ∧
  decode 0x50000000000001234#67 = .reservedOp5 0x1234#64 ∧
  decode 0x60000000000000000#67 = .reservedOp6 0#64 ∧
  decode 0x700000000DEADBEEF#67 = .reservedOp7 0xDEADBEEF#64

/-! ### The result of each command, with everything it leaves unchanged -/

/-- 40_control.md R81: NOP changes nothing, gives no response, in every state, and an edge that accepts it is an
edge with no command. -/
def Obligations.NopDoesNothing : Prop :=
  (∀ arg : Word, decode (commandWord 0b000#3 arg) = .nop arg) ∧
  (∀ (arg : Word) (s : State), exec (.nop arg) s = .next s) ∧
  ∀ (arg : Word) (s : State), step (s.present (commandPins 0b000#3 arg)) = step (s.present idlePins)

/-- 40_control.md R82: SEED loads its arg, sets `seeded` and is acknowledged by (0, ERR_NONE). Nothing else
changes, and the seed is not mixed. -/
def Obligations.SeedLoadsItsArg : Prop :=
  (∀ arg : Word, decode (commandWord 0b001#3 arg) = .seed arg) ∧
  ∀ (arg : Word) (s : State),
    exec (.seed arg) s =
      .next { s with gen := some arg, inflight := s.inflight ++ [⟨0, ⟨0#64, 0b00#2⟩⟩] }

/-- 41_advance_mix.md R96: NEXT_RAW on a seeded block keeps the sum in S and responds with its mix. -/
def Obligations.NextRawRespondsWithTheMix : Prop :=
  (∀ arg : Word, decode (commandWord 0b010#3 arg) = .nextRaw arg) ∧
  ∀ (arg v : Word) (s : State), s.gen = some v →
    exec (.nextRaw arg) s =
      .next { s with
        gen := some (v + 0x9E3779B97F4A7C15#64)
        inflight := s.inflight ++ [⟨0, ⟨mix64 (v + 0x9E3779B97F4A7C15#64), 0b00#2⟩⟩] }

/-- 42_accessors.md R111, R114: NEXT_BND with n ≠ 0 on a seeded block advances S and responds with the plain
remainder of the raw value by n. -/
def Obligations.NextBndRespondsWithTheRemainder : Prop :=
  (∀ arg : Word, decode (commandWord 0b011#3 arg) = .nextBnd arg) ∧
  ∀ (n v : Word) (s : State), s.gen = some v → n ≠ 0#64 →
    exec (.nextBnd n) s =
      .next { s with
        gen := some (v + 0x9E3779B97F4A7C15#64)
        inflight := s.inflight ++
          [⟨0, ⟨BitVec.ofNat 64 ((mix64 (v + 0x9E3779B97F4A7C15#64)).toNat % n.toNat), 0b00#2⟩⟩] }

/-- 42_accessors.md R115: NEXT_FLT on a seeded block advances S and responds with F64Bits(raw >> 11). -/
def Obligations.NextFltRespondsWithTheFloat : Prop :=
  (∀ arg : Word, decode (commandWord 0b100#3 arg) = .nextFlt arg) ∧
  ∀ (arg v : Word) (s : State), s.gen = some v →
    exec (.nextFlt arg) s =
      .next { s with
        gen := some (v + 0x9E3779B97F4A7C15#64)
        inflight := s.inflight ++
          [⟨0, ⟨f64Bits (BitVec.ofNat 53 ((mix64 (v + 0x9E3779B97F4A7C15#64)).toNat / 2 ^ 11)), 0b00#2⟩⟩] }

/-- 40_control.md R84: a command with a reserved op value reports ILLEGAL_COMMAND with data 0 in every state,
whatever its arg, and changes nothing else. -/
def Obligations.ReservedCommandsReportIllegal : Prop :=
  (∀ arg : Word, decode (commandWord 0b101#3 arg) = .reservedOp5 arg ∧
    decode (commandWord 0b110#3 arg) = .reservedOp6 arg ∧ decode (commandWord 0b111#3 arg) = .reservedOp7 arg) ∧
  ∀ (arg : Word) (s : State),
    exec (.reservedOp5 arg) s = .next { s with inflight := s.inflight ++ [⟨0, ⟨0#64, 0b11#2⟩⟩] } ∧
    exec (.reservedOp6 arg) s = .next { s with inflight := s.inflight ++ [⟨0, ⟨0#64, 0b11#2⟩⟩] } ∧
    exec (.reservedOp7 arg) s = .next { s with inflight := s.inflight ++ [⟨0, ⟨0#64, 0b11#2⟩⟩] }

/-- 40_control.md R80: `Execute` is defined for every op value, every arg value and every state, and it is the
pure function of R80. Nothing but (S, seeded) and the end of the response stream changes. -/
def Obligations.ExecIsTheFunctionOfTheSpec : Prop :=
  ∀ (op : Op) (arg : Word) (s : State),
    exec (decode (commandWord op arg)) s =
      .next { s with
        gen := (execute op arg s.gen).1
        inflight := s.inflight ++ ((execute op arg s.gen).2.map fun r => InFlight.mk 0 (toResponse r)).toList }

/-! ### Errors -/

/-- 60_exceptions.md R133: the NEXT commands report UNSEEDED while `seeded` = 0, which is the case after reset,
and change nothing. NEXT_BND does so for a bound that is valid (R135). -/
def Obligations.UnseededNextCommandsFail : Prop :=
  State.reset.gen = none ∧
  ∀ s : State, s.gen = none →
    (∀ arg : Word,
      exec (.nextRaw arg) s = .next { s with inflight := s.inflight ++ [⟨0, ⟨0#64, 0b10#2⟩⟩] }) ∧
    (∀ n : Word, n ≠ 0#64 →
      exec (.nextBnd n) s = .next { s with inflight := s.inflight ++ [⟨0, ⟨0#64, 0b10#2⟩⟩] }) ∧
    ∀ arg : Word,
      exec (.nextFlt arg) s = .next { s with inflight := s.inflight ++ [⟨0, ⟨0#64, 0b10#2⟩⟩] }

/-- 60_exceptions.md R132: NEXT_BND with bound 0 reports INVALID_ARGUMENT in every state and changes nothing
else; no other command reports it; and every software bound n ≤ 0 is presented as that command. -/
def Obligations.BoundZeroIsInvalidArgument : Prop :=
  (∀ s : State, exec (.nextBnd 0#64) s = .next { s with inflight := s.inflight ++ [⟨0, ⟨0#64, 0b01#2⟩⟩] }) ∧
  (∀ (i : Instr) (s t : State) (r : Response), exec i s = .next t → t.inflight = s.inflight ++ [⟨0, r⟩] →
    r.err = 0b01#2 → i = .nextBnd 0#64) ∧
  ∀ n : Int, n ≤ 0 → boundCommand n = .nextBnd 0#64

/-- 60_exceptions.md R134: a command that fails leaves S and `seeded` unchanged, so whatever command comes next
has the effect and the response it would have had in the failed one's place. -/
def Obligations.FailedCommandsChangeNothing : Prop :=
  ∀ (i : Instr) (s t : State) (r : Response), exec i s = .next t → t.inflight = s.inflight ++ [⟨0, r⟩] →
    r.err ≠ 0b00#2 →
    t.gen = s.gen ∧ r.data = 0#64 ∧
    ∀ j : Instr, ∃ (u u' : State) (rs : List InFlight),
      exec j s = .next u ∧ exec j t = .next u' ∧ u'.gen = u.gen ∧
      u.inflight = s.inflight ++ rs ∧ u'.inflight = t.inflight ++ rs

/-- 60_exceptions.md R135: the one error that a response reports, in the order ILLEGAL_COMMAND,
INVALID_ARGUMENT, UNSEEDED. -/
def Obligations.ErrorsHaveOnePriority : Prop :=
  ∀ (i : Instr) (s t : State) (r : Response), exec i s = .next t → t.inflight = s.inflight ++ [⟨0, r⟩] →
    r.err =
      if 5 ≤ i.op.toNat then 0b11#2
      else if i = .nextBnd 0#64 then 0b01#2
      else if isDrawing i = true ∧ s.gen = none then 0b10#2
      else 0b00#2

/-- 10_state.md R22, 40_control.md R80: every command completes in every state. None reads S while it has no
value, and none is refused. -/
def Obligations.CommandsNeverStop : Prop :=
  ∀ (i : Instr) (s : State), ∃ t : State, exec i s = .next t

/-- 10_state.md R27, R136 of 60_exceptions.md: the frame of every command. It touches neither the response port
nor the host, it adds exactly one response unless it is NOP, it keeps the responses before it, and only SEED
and a NEXT command with a valid bound may change (S, seeded). -/
def Obligations.CommandsKeepEverythingElse : Prop :=
  ∀ (i : Instr) (s t : State), exec i s = .next t →
    t.rspValid = s.rspValid ∧ t.rspData = s.rspData ∧ t.rspErr = s.rspErr ∧ t.host = s.host ∧
    t.delivered = s.delivered ∧
    (isSeed i = false → isDrawing i = false → t.gen = s.gen) ∧
    ∃ rs : List Response, t.inflight = s.inflight ++ rs.map (InFlight.mk 0) ∧
      rs.length = if isAnswered i then 1 else 0

/-- 30_encoding.md R63: SEED and NEXT_BND read the arg field whole, as an unsigned number, and the result of
every other command does not depend on it. -/
def Obligations.ArgIsReadBySeedAndBoundOnly : Prop :=
  (∀ (op : Op) (arg : Word), (decode (commandWord op arg)).arg = arg) ∧
  (∀ (a b : Word) (s : State),
    exec (.nop a) s = exec (.nop b) s ∧ exec (.nextRaw a) s = exec (.nextRaw b) s ∧
    exec (.nextFlt a) s = exec (.nextFlt b) s ∧ exec (.reservedOp5 a) s = exec (.reservedOp5 b) s ∧
    exec (.reservedOp6 a) s = exec (.reservedOp6 b) s ∧ exec (.reservedOp7 a) s = exec (.reservedOp7 b) s) ∧
  (∀ (a : Word) (s : State), ∃ t : State, exec (.seed a) s = .next t ∧ t.gen = some a) ∧
  ∀ (n v : Word) (s : State), s.gen = some v → n ≠ 0#64 →
    ∃ (t : State) (d : Word), exec (.nextBnd n) s = .next t ∧ t.inflight = s.inflight ++ [⟨0, ⟨d, 0b00#2⟩⟩] ∧
      d.toNat = (mix64 (weylStep v)).toNat % n.toNat

/-! ### The datapath -/

/-- 41_advance_mix.md R91, R97: `Advance` adds mod 2^64, discards the carry, keeps the sum in S and returns the
mix of the sum. It changes nothing else. -/
def Obligations.AdvanceAddsThenMixes : Prop :=
  ∀ (v : Word) (s : State), s.gen = some v →
    ∃ w : Word, w.toNat = (v.toNat + 0x9E3779B97F4A7C15) % 2 ^ 64 ∧
      advance s = .ok (mix64 w, { s with gen := some w })

/-- 41_advance_mix.md R92, R93, R94, R95: the rounds of the mixer and their composition, on numbers. -/
def Obligations.MixerRoundsAreTheFormulas : Prop :=
  (∀ z : Word, (z >>> 30).toNat < 2 ^ 34 ∧
    (round1 z).toNat = (z.toNat ^^^ z.toNat / 2 ^ 30) * 0xBF58476D1CE4E5B9 % 2 ^ 64) ∧
  (∀ z : Word, (round2 z).toNat = (z.toNat ^^^ z.toNat / 2 ^ 27) * 0x94D049BB133111EB % 2 ^ 64) ∧
  (∀ z : Word, (round3 z).toNat = z.toNat ^^^ z.toNat / 2 ^ 31) ∧
  ∀ x : Word, mix64 x = round3 (round2 (round1 x))

/-- 41_advance_mix.md R99: every xor-shift by 1 to 63 and every multiplication by an odd constant is invertible,
the two multipliers have the stated inverses, Mix64 is a bijection, and only 0 is mixed to 0. -/
def Obligations.MixerIsBijective : Prop :=
  (∀ k : Nat, 1 ≤ k → k ≤ 63 → Function.Bijective (xorShift k)) ∧
  (∀ c : Word, c.getLsbD 0 = true → Function.Bijective fun z : Word => z * c) ∧
  0xBF58476D1CE4E5B9#64 * 0x96DE1B173F119089#64 = 1#64 ∧
  0x94D049BB133111EB#64 * 0x319642B2D24D8EC3#64 = 1#64 ∧
  Function.Bijective mix64 ∧ ∀ x : Word, mix64 x = 0#64 ↔ x = 0#64

/-- 41_advance_mix.md R98, R99: each round maps 0 to 0, so the state value 0 gives the raw output 0. As only 0 is
mixed to 0 and the Weyl step is injective, exactly one value of S before the command gives it, 0x61C8864680B583EB. -/
def Obligations.ZeroIsMixedToZero : Prop :=
  round1 0#64 = 0#64 ∧ round2 0#64 = 0#64 ∧ round3 0#64 = 0#64 ∧ mix64 0#64 = 0#64 ∧
  ∀ v : Word, mix64 (weylStep v) = 0#64 ↔ v = 0x61C8864680B583EB#64

/-- 41_advance_mix.md R100, R101: after SEED and any further commands without SEED, S has taken one Weyl step
for each successful NEXT command, and no failed command shifts it. -/
def Obligations.SeededStateCountsSuccessfulNexts : Prop :=
  ∀ (v : Word) (cmds : List Instr) (s : State), (∀ c ∈ cmds, isSeed c = false) →
    ∃ t : State, execList (.seed v :: cmds) s = .next t ∧
      t.gen = some (v + BitVec.ofNat 64 (cmds.countP isDrawing) * 0x9E3779B97F4A7C15#64)

/-- 41_advance_mix.md R100: after SEED v the k-th of a run of NEXT_RAW commands responds with
Mix64(v + k · GOLDEN_GAMMA). -/
def Obligations.RawStreamIsTheMixedWeylSequence : Prop :=
  ∀ (v : Word) (args : List Word) (s : State),
    ∃ t : State, execList (.seed v :: args.map Instr.nextRaw) s = .next t ∧
      t.inflight = s.inflight ++ ⟨0, ⟨0#64, 0b00#2⟩⟩ ::
        (List.range args.length).map fun j => ⟨0, ⟨streamValue v (j + 1), 0b00#2⟩⟩

/-- 41_advance_mix.md R100: the state sequence has period exactly 2^64 and visits every value once per period. -/
def Obligations.StateSequenceHasFullPeriod : Prop :=
  (∀ (v : Word) (k : Nat), weylStep^[k] v = v ↔ 2 ^ 64 ∣ k) ∧
  ∀ v w : Word, ∃! k : Nat, k < 2 ^ 64 ∧ weylStep^[k] v = w

/-- 42_accessors.md R112: a successful NEXT_BND responds with a value r, 0 ≤ r < n ≤ 2^64 − 1. -/
def Obligations.BoundedResultIsBelowTheBound : Prop :=
  ∀ (n v : Word) (s : State), s.gen = some v → n ≠ 0#64 →
    ∃ (t : State) (d : Word), exec (.nextBnd n) s = .next t ∧ t.inflight = s.inflight ++ [⟨0, ⟨d, 0b00#2⟩⟩] ∧
      d.toNat < n.toNat ∧ n.toNat ≤ 2 ^ 64 - 1

/-- 42_accessors.md R113: the corner cases of NEXT_BND. -/
def Obligations.BoundedCornerCases : Prop :=
  (∀ (v : Word) (s : State), s.gen = some v →
    exec (.nextBnd 1#64) s =
      .next { s with gen := some (weylStep v), inflight := s.inflight ++ [⟨0, ⟨0#64, 0b00#2⟩⟩] }) ∧
  (∀ (raw : Word) (k : Nat), 1 ≤ k → k ≤ 63 →
    outputMux (.bounded (BitVec.ofNat 64 (2 ^ k))) raw = (raw.extractLsb' 0 k).setWidth 64) ∧
  (∀ raw n : Word, raw.toNat < n.toNat → outputMux (.bounded n) raw = raw) ∧
  (∀ raw : Word, outputMux (.bounded 0xFFFFFFFFFFFFFFFF#64) raw =
    if raw = 0xFFFFFFFFFFFFFFFF#64 then 0#64 else raw) ∧
  (∀ n : Nat, 2 ^ 64 ≤ n → boundCommand n = .nextRaw 0#64 ∧ ∀ raw : Word, raw.toNat % n = raw.toNat) ∧
  ∀ s : State, exec (.nextBnd 0#64) s = .next { s with inflight := s.inflight ++ [⟨0, ⟨0#64, 0b01#2⟩⟩] }

/-- 42_accessors.md R114, 95_test_vectors.md V-BND: over all values of S, NEXT_BND n gives each residue below n
exactly as often as the plain remainder of 0, 1, …, 2^64 − 1 does. The bias is exactly that of the modulo. -/
def Obligations.BoundedBiasIsThatOfTheRemainder : Prop :=
  ∀ n r : Word, n ≠ 0#64 → r.toNat < n.toNat →
    Fintype.card { v : Word // outputMux (.bounded n) (mix64 (weylStep v)) = r } =
      2 ^ 64 / n.toNat + if r.toNat < 2 ^ 64 % n.toNat then 1 else 0

/-- 42_accessors.md R116: F64Bits(m) is the binary64 encoding of m / 2^53, +0.0 for m = 0. The value of a pattern
is `binary64Value`, whose cases for normal numbers and zero are R116's layout. -/
def Obligations.FloatBitsEncodeTheQuotient : Prop :=
  f64Bits 0#53 = 0x0000000000000000#64 ∧
  ∀ m : BitVec 53, binary64Value (f64Bits m) = some ((m.toNat : ℚ) / 2 ^ 53)

/-- 42_accessors.md R117: the pattern of a result that is not 0 is a positive normal number, biased exponent 970
to 1022. So it is no subnormal, no NaN, no infinity and no negative zero. -/
def Obligations.FloatResultIsPositiveNormalOrZero : Prop :=
  ∀ m : BitVec 53, m ≠ 0#53 →
    (f64Bits m).getLsbD 63 = false ∧
    970 ≤ ((f64Bits m).extractLsb' 52 11).toNat ∧ ((f64Bits m).extractLsb' 52 11).toNat ≤ 1022

/-- 42_accessors.md R118: the NEXT_FLT result takes exactly the values k · 2^−53, 0 ≤ k < 2^53, and is never
1.0 or more. -/
def Obligations.FloatResultsAreTheMultiples : Prop :=
  (Set.range fun raw : Word => binary64Value (outputMux .float raw)) =
    { q | ∃ k : Nat, k < 2 ^ 53 ∧ q = some ((k : ℚ) / 2 ^ 53) } ∧
  ∀ raw : Word, ∃ q : ℚ, binary64Value (outputMux .float raw) = some q ∧ 0 ≤ q ∧ q ≤ 1 - 1 / 2 ^ 53 ∧ q < 1

/-- 42_accessors.md R115, corner cases: the results of the smallest and the largest raw values, 1.0 is never
produced, and raw[10:0] never affects the result. -/
def Obligations.FloatCornerCases : Prop :=
  (∀ raw : Word, raw.toNat < 0x800 → outputMux .float raw = 0x0000000000000000#64) ∧
  (∀ raw : Word, 0xFFFFFFFFFFFFF800 ≤ raw.toNat → outputMux .float raw = 0x3FEFFFFFFFFFFFFF#64) ∧
  (∀ raw : Word, outputMux .float raw ≠ 0x3FF0000000000000#64) ∧
  ∀ raw raw' : Word, raw.extractLsb' 11 53 = raw'.extractLsb' 11 53 → outputMux .float raw = outputMux .float raw'

/-! ### Edges, reset and the response port -/

/-- 10_state.md R30: the values after reset. -/
def Obligations.ResetValues : Prop :=
  State.reset.gen = none ∧ State.reset.seeded = false ∧ State.reset.inflight = [] ∧
  State.reset.rspValid = false ∧ State.reset.rspData = 0#64 ∧ State.reset.rspErr = 0#2

/-- 70_reset_and_hazards.md R150, R151: from any state whatever, power-up included, a reset edge leaves the reset
values, and what stands on the command ports there does not matter. -/
def Obligations.ResetEdgeLeavesTheResetValues : Prop :=
  ∀ (s : State) (p : Pins), p.rst = some true →
    (∃ t : State, step (s.present p) = .next t ∧ t.gen = none ∧ t.seeded = false ∧ t.inflight = [] ∧
      t.rspValid = false ∧ t.rspData = 0#64 ∧ t.rspErr = 0#2) ∧
    ∀ q : Pins, q.rst = some true → step (s.present p) = step (s.present q)

/-- 70_reset_and_hazards.md R158: a reset edge discards the responses in flight and delivers the one on the port,
whose sample edge it is. That `delivered` outlives the reset and that the host's schedule moves on is the model's
choice (log 5, log 8). -/
def Obligations.ResetEdgeDeliversThePortResponse : Prop :=
  ∀ s : State, s.pins.rst = some true →
    step s = .next { State.reset with host := s.host.tail, delivered := s.delivered ++ portResponse s }

/-- 30_encoding.md R62: an edge with `cmd_valid` = 0 changes neither (S, seeded) nor the responses given so far,
whatever is on the op and arg ports, and is indistinguishable from a NOP. -/
def Obligations.EdgeWithoutCommandIsANop : Prop :=
  ∀ (s : State) (p : Pins), p.rst = some false → p.cmdValid = some false →
    (∃ t : State, step (s.present p) = .next t ∧ t.gen = s.gen ∧ issued t = issued s) ∧
    ∀ arg : Word, step (s.present p) = step (s.present (commandPins 0b000#3 arg))

/-- 10_state.md R26: an edge that accepts the command word of `i` runs `i` after the beginning of the edge, and
then drives the response port. A word of the opcode table that the host presents is run so by the next step. What an edge does around the command is
read from several rules (log 3), and presenting a word is the model's form (log 6). -/
def Obligations.StepRunsTheDecodedCommand : Prop :=
  (∀ (s : State) (i : Instr), s.pins = commandPins i.op i.arg →
    ∃ t : State, exec i (beginEdge s) = .next t ∧ step s = .next (drivePort Config.latency t)) ∧
  ∀ (s : State) (i : Instr) (nbits : Nat), 67 ≤ nbits →
    decodeTableWord nbits (encode i).toNat = some i ∧
    (s.withFetchWord nbits (encode i).toNat).pins = commandPins i.op i.arg

/-- 70_reset_and_hazards.md R160, 93_implementation_defined.md U5: the machine stops only where an input port it
needs has no defined value, each case under its own name, and it never faults. The form of undefined values is
the model's choice (log 7). -/
def Obligations.StepStopsOnlyOnUndefinedInputs : Prop :=
  ∀ s : State,
    (definedPins s.pins = true → ∃ t : State, step s = .next t) ∧
    (s.pins.rst = none → step s = .refused .undefinedReset) ∧
    (s.pins.rst = some false → s.pins.cmdValid = none → step s = .refused .undefinedValid) ∧
    (s.pins.rst = some false → s.pins.cmdValid = some true → s.pins.cmdOp = none ∨ s.pins.cmdArg = none →
      step s = .refused .undefinedCommand) ∧
    ∀ f : Fault, step s ≠ .fault f

/-- 10_state.md R20, R23: whatever happens at an edge, S changes only by a SEED to its arg, by a NEXT command to
(S + GOLDEN_GAMMA) mod 2^64, or by a reset edge to no value. -/
def Obligations.OnlySeedNextAndResetWriteS : Prop :=
  ∀ s t : State, step s = .next t →
    t.gen = s.gen ∨ (s.pins.rst = some true ∧ t.gen = none) ∨
    (∃ v : Word, s.pins = commandPins 0b001#3 v ∧ t.gen = some v) ∨
    ∃ (op : Op) (arg v : Word), s.pins = commandPins op arg ∧ (op = 0b010#3 ∨ op = 0b011#3 ∨ op = 0b100#3) ∧
      s.gen = some v ∧ t.gen = some (v + 0x9E3779B97F4A7C15#64)

/-- 10_state.md R27, R28: the order, the due times, the error data and the idle port of the response pipeline
are kept by every edge, from every state that has them. Where a response is counted between two edges is the
model's reading (log 4). -/
def Obligations.PipelineIsKeptByEveryStep : Prop :=
  ∀ s t : State, PipelineOk Config.latency s → step s = .next t → PipelineOk Config.latency t

/-- 10_state.md R30, 70_reset_and_hazards.md R151: the pipeline invariant holds at reset, and after a reset edge
from any state whatever. -/
def Obligations.PipelineHoldsAfterReset : Prop :=
  PipelineOk Config.latency State.reset ∧
  ∀ s t : State, s.pins.rst = some true → step s = .next t → PipelineOk Config.latency t

/-- 10_state.md R28: at most LATENCY responses are in flight, the one on the port counted (log 4). -/
def Obligations.AtMostLatencyResponsesAreOutstanding : Prop :=
  ∀ s : State, PipelineOk Config.latency s → s.inflight.length + (portResponse s).length ≤ Config.latency

/-- 20_memory.md R48, 70_reset_and_hazards.md R155: at edges with defined inputs, each command reads the
(S, seeded) that the edge before it left, consecutive edges included, and the reset state after a reset edge.
After its schedule the host presents no command (log 5). -/
def Obligations.CommandsTakeEffectInOrder : Prop :=
  ∀ (n : Nat) (s : State), (∀ p ∈ schedule n s, definedPins p = true) →
    ∃ t : State, Host.Core.run core n s = .next t ∧ t.gen = genAfter (schedule n s) s.gen ∧
      t.host = s.host.drop n

/-- 70_reset_and_hazards.md R157, R158: from a quiet block, the host has sampled, in order, exactly the responses
of the commands accepted LATENCY edges before or earlier that no reset edge discarded. The schedule and the
record of what was sampled are the model's own fields (log 5, log 8). -/
def Obligations.ResponsesAreSampledAfterLatencyEdges : Prop :=
  ∀ (n : Nat) (s : State), quiet s → (∀ p ∈ schedule n s, definedPins p = true) →
    ∃ t : State, Host.Core.run core n s = .next t ∧
      t.delivered = s.delivered ++ sampledBy Config.latency (schedule n s) s.gen

/-- 70_reset_and_hazards.md R161: a run without reset edges ends LATENCY edges after its last command. Then every
response has been sampled, in order, the block is quiet again, and (S, seeded) is what the commands left
(log 5, log 8). -/
def Obligations.CompleteRunDeliversEveryResponse : Prop :=
  ∀ (ps : List Pins) (s : State), quiet s → s.host = ps → (∀ p ∈ ps, runningPins p = true) →
    ∃ t : State, Host.Core.run core (ps.length + Config.latency) s = .next t ∧
      t.delivered = s.delivered ++ (answers ps s.gen).reduceOption ∧ t.gen = genAfter ps s.gen ∧ quiet t

/-- 41_advance_mix.md R90: without reset edges, the responses given and the state reached are fixed by the
commands and the state alone, the same for every LATENCY. The schedule and the record of delivered responses, of
which `issued` is made, are the model's own fields (log 5, log 8). -/
def Obligations.ResponsesDoNotDependOnLatency : Prop :=
  ∀ (latency n : Nat) (s : State), 1 ≤ latency → (∀ p ∈ schedule n s, runningPins p = true) →
    ∃ t : State, Host.Core.run (coreAt latency) n s = .next t ∧
      issued t = issued s ++ (answers (schedule n s) s.gen).reduceOption ∧ t.gen = genAfter (schedule n s) s.gen

/-! ### Streams and the software generator -/

/-- 40_control.md R83: a SEED starts the stream again as on a freshly built generator, whatever the block did
before, and the responses of earlier commands stay as they are. -/
def Obligations.SeedForgetsThePast : Prop :=
  ∀ (v : Word) (cmds : List Instr) (s s' : State),
    ∃ (t t' : State) (rs : List InFlight),
      execList (.seed v :: cmds) s = .next t ∧ execList (.seed v :: cmds) s' = .next t' ∧
      t'.gen = t.gen ∧ t.inflight = s.inflight ++ rs ∧ t'.inflight = s'.inflight ++ rs

/-- 30_encoding.md R64: the arg of SEED is the software seed mod 2^64. -/
def Obligations.SeedsAreReducedModulo : Prop :=
  ∀ seed : Int, ((seedOfInteger seed).toNat : Int) = seed % 2 ^ 64

/-- 30_encoding.md R69: any sequence of calls of the software generator, with integers of any size, presented as
one command each, leaves S at the software state and gives the software results in order. The software generator is
the model's own reference, written from the formulas the spec quotes (log 14). After a failed bound its state is what
it was, as 60_exceptions.md R134 and 92_eei_decisions.md D7 decide, where the Python original may differ (log 11). -/
def Obligations.BlockRefinesTheSoftwareGenerator : Prop :=
  ∀ (ops : List SoftwareOp) (v : Word) (s : State), s.gen = some v →
    ∃ (t : State) (w : Word) (rs : List Response),
      execList (ops.map SoftwareOp.command) s = .next t ∧ t.gen = some w ∧
      w.toNat = (softwareRun ops v.toNat).1 ∧ t.inflight = s.inflight ++ rs.map (InFlight.mk 0) ∧
      List.Forall₂ reports (softwareRun ops v.toNat).2 rs

/-- 30_encoding.md R68: a line of the assembler syntax is presented as its command exactly when its numbers fit,
and RESET is a reset edge. -/
def Obligations.AssemblerLinesPresentTheirCommands : Prop :=
  (∀ imm : Nat, imm < 2 ^ 64 →
    AsmLine.pins (.seed imm) = some (commandPins 0b001#3 (BitVec.ofNat 64 imm)) ∧
    AsmLine.pins (.nextBnd imm) = some (commandPins 0b011#3 (BitVec.ofNat 64 imm)) ∧
    ∀ op : Nat, op < 8 →
      AsmLine.pins (.cmd op imm) = some (commandPins (BitVec.ofNat 3 op) (BitVec.ofNat 64 imm))) ∧
  (∀ op imm : Nat, 2 ^ 64 ≤ imm →
    AsmLine.pins (.seed imm) = none ∧ AsmLine.pins (.nextBnd imm) = none ∧ AsmLine.pins (.cmd op imm) = none) ∧
  (∀ op imm : Nat, 8 ≤ op → AsmLine.pins (.cmd op imm) = none) ∧
  AsmLine.pins .nop = some (commandPins 0b000#3 0#64) ∧
  AsmLine.pins .nextRaw = some (commandPins 0b010#3 0#64) ∧
  AsmLine.pins .nextFlt = some (commandPins 0b100#3 0#64) ∧
  AsmLine.pins .reset = some resetPins
end

