-- ==== Sys2Proof/Laws/Datapath.lean ====
section
/-! SUPPORT. The datapath on numbers: one lemma per function. The constants' lemmas are proved by `decide`, so
that `simp` rewrites with them instead of unfolding a large literal in the kernel. -/

namespace Sys2Proof.Machine

@[simp] theorem goldenGamma_toNat : goldenGamma.toNat = 0x9E3779B97F4A7C15 := by decide

@[simp] theorem mixMul1_toNat : mixMul1.toNat = 0xBF58476D1CE4E5B9 := by decide

@[simp] theorem mixMul2_toNat : mixMul2.toNat = 0x94D049BB133111EB := by decide

theorem weylStep_toNat (s : Word) : (weylStep s).toNat = (s.toNat + 0x9E3779B97F4A7C15) % 2 ^ 64 := by
  rw [weylStep, BitVec.toNat_add, goldenGamma_toNat]

theorem xorShift_toNat (k : Nat) (z : Word) : (xorShift k z).toNat = z.toNat ^^^ z.toNat / 2 ^ k := by
  rw [xorShift, BitVec.toNat_xor, BitVec.toNat_ushiftRight, Nat.shiftRight_eq_div_pow]

theorem xorShift_getLsbD (k : Nat) (z : Word) (i : Nat) :
    (xorShift k z).getLsbD i = (z.getLsbD i ^^ z.getLsbD (k + i)) := by
  simp [xorShift]

theorem boundedInteger_toNat (raw n : Word) : (boundedInteger raw n).toNat = raw.toNat % n.toNat :=
  BitVec.toNat_umod

theorem floatMantissa_toNat (raw : Word) : (floatMantissa raw).toNat = raw.toNat / 2 ^ 11 := by
  have bound := raw.isLt
  rw [floatMantissa, BitVec.toNat_setWidth, BitVec.toNat_ushiftRight, Nat.shiftRight_eq_div_pow]
  omega

/-- What the search for the highest set bit finds: a set bit with none above it up to `k`. -/
theorem highestSetBitFrom_spec (m : BitVec 53) (k : Nat) (some_bit : ∃ i ≤ k, m.getLsbD i = true) :
    m.getLsbD (highestSetBitFrom m k) = true ∧ highestSetBitFrom m k ≤ k ∧
      ∀ i, highestSetBitFrom m k < i → i ≤ k → m.getLsbD i = false := by
  induction k with
  | zero =>
    obtain ⟨i, hi, h⟩ := some_bit
    obtain rfl : i = 0 := by omega
    exact ⟨h, le_refl _, fun j hj hj' => by simp [highestSetBitFrom] at hj; omega⟩
  | succ k ih =>
    unfold highestSetBitFrom
    split
    · exact ⟨‹_›, le_refl _, fun j hj hj' => by omega⟩
    · rename_i top
      obtain ⟨i, hi, h⟩ := some_bit
      have below : i ≤ k := by
        by_contra above
        obtain rfl : i = k + 1 := by omega
        exact top h
      obtain ⟨set, le, clear⟩ := ih ⟨i, below, h⟩
      refine ⟨set, by omega, fun j hj hj' => ?_⟩
      by_cases e : j = k + 1
      · subst e; simpa using top
      · exact clear j hj (by omega)

end Sys2Proof.Machine
end

