-- ==== Sys2Proof/Laws/Decode.lean ====
section
/-! SUPPORT. The fields of a command word, and decoding seen from the op and arg ports. -/

namespace Sys2Proof

/-- A command word as a number is op · 2^64 + arg (30_encoding.md R60). -/
theorem commandWord_toNat (op : Op) (arg : Word) :
    (commandWord op arg).toNat = op.toNat * 2 ^ 64 + arg.toNat := by
  show BitVec.toNat (w := 3 + 64) (op ++ arg) = _
  rw [BitVec.toNat_append, Nat.shiftLeft_eq, mul_comm, ← Nat.two_pow_add_eq_or_of_lt arg.isLt]

@[simp] theorem opField_commandWord (op : Op) (arg : Word) : opField (commandWord op arg) = op := by
  apply BitVec.eq_of_toNat_eq
  rw [opField, BitVec.extractLsb'_toNat, commandWord_toNat, Nat.shiftRight_eq_div_pow]
  omega

@[simp] theorem argField_commandWord (op : Op) (arg : Word) : argField (commandWord op arg) = arg := by
  apply BitVec.eq_of_toNat_eq
  rw [argField, BitVec.extractLsb'_toNat, commandWord_toNat, Nat.shiftRight_eq_div_pow]
  omega

theorem commandWord_fields (cw : CommandWord) : commandWord (opField cw) (argField cw) = cw := by
  apply BitVec.eq_of_toNat_eq
  rw [commandWord_toNat, opField, argField, BitVec.extractLsb'_toNat, BitVec.extractLsb'_toNat,
    Nat.shiftRight_eq_div_pow, Nat.shiftRight_eq_div_pow]
  omega

theorem decode_commandWord (op : Op) (arg : Word) : decode (commandWord op arg) = decodeFields op arg := by
  simp [decode]

/-- Each op value decodes to the command with that op, so decoding loses no op bit (R61). -/
@[simp] theorem decodeFields_op (op : Op) (arg : Word) : (decodeFields op arg).op = op := by
  apply BitVec.eq_of_toNat_eq
  have bound := op.isLt
  match h : op.toNat with
  | 0 | 1 | 2 | 3 | 4 | 5 | 6 | 7 => simp [decodeFields, h, Instr.op]
  | n + 8 => omega

/-- Decoding reads the arg field whole. -/
@[simp] theorem decodeFields_arg (op : Op) (arg : Word) : (decodeFields op arg).arg = arg := by
  unfold decodeFields; split <;> rfl

@[simp] theorem decodeFields_of_instr (i : Instr) : decodeFields i.op i.arg = i := by
  cases i <;> rfl

theorem wellFormed_all (i : Instr) : i.wellFormed = true := by
  cases i <;> simp [Instr.wellFormed, fieldsFit] <;> exact BitVec.isLt _

end Sys2Proof
end

