-- ==== Sys2Proof/Laws/State.lean ====
section
/-! SUPPORT. What each update of State does to each field, so that no later proof unfolds a record update. -/

namespace Sys2Proof.Machine

/-! ### writeS -/

@[simp] theorem writeS_gen (s : State) (v : Word) : (s.writeS v).gen = some v := rfl

@[simp] theorem writeS_inflight (s : State) (v : Word) : (s.writeS v).inflight = s.inflight := rfl

@[simp] theorem writeS_rspValid (s : State) (v : Word) : (s.writeS v).rspValid = s.rspValid := rfl

@[simp] theorem writeS_rspData (s : State) (v : Word) : (s.writeS v).rspData = s.rspData := rfl

@[simp] theorem writeS_rspErr (s : State) (v : Word) : (s.writeS v).rspErr = s.rspErr := rfl

@[simp] theorem writeS_host (s : State) (v : Word) : (s.writeS v).host = s.host := rfl

@[simp] theorem writeS_delivered (s : State) (v : Word) : (s.writeS v).delivered = s.delivered := rfl

/-! ### respond -/

@[simp] theorem respond_gen (s : State) (d : Word) (e : ErrCode) : (respond s d e).gen = s.gen := rfl

@[simp] theorem respond_inflight (s : State) (d : Word) (e : ErrCode) : (respond s d e).inflight = s.inflight ++ [⟨0, ⟨d, e.bits⟩⟩] := rfl

@[simp] theorem respond_rspValid (s : State) (d : Word) (e : ErrCode) : (respond s d e).rspValid = s.rspValid := rfl

@[simp] theorem respond_rspData (s : State) (d : Word) (e : ErrCode) : (respond s d e).rspData = s.rspData := rfl

@[simp] theorem respond_rspErr (s : State) (d : Word) (e : ErrCode) : (respond s d e).rspErr = s.rspErr := rfl

@[simp] theorem respond_host (s : State) (d : Word) (e : ErrCode) : (respond s d e).host = s.host := rfl

@[simp] theorem respond_delivered (s : State) (d : Word) (e : ErrCode) : (respond s d e).delivered = s.delivered := rfl

/-! ### reportError -/

@[simp] theorem reportError_gen (s : State) (e : ErrCode) : (reportError s e).gen = s.gen := rfl

@[simp] theorem reportError_inflight (s : State) (e : ErrCode) : (reportError s e).inflight = s.inflight ++ [⟨0, ⟨0#64, e.bits⟩⟩] := rfl

@[simp] theorem reportError_rspValid (s : State) (e : ErrCode) : (reportError s e).rspValid = s.rspValid := rfl

@[simp] theorem reportError_rspData (s : State) (e : ErrCode) : (reportError s e).rspData = s.rspData := rfl

@[simp] theorem reportError_rspErr (s : State) (e : ErrCode) : (reportError s e).rspErr = s.rspErr := rfl

@[simp] theorem reportError_host (s : State) (e : ErrCode) : (reportError s e).host = s.host := rfl

@[simp] theorem reportError_delivered (s : State) (e : ErrCode) : (reportError s e).delivered = s.delivered := rfl

/-! ### setPort -/

@[simp] theorem setPort_gen (s : State) (r : Option Response) : (setPort s r).gen = s.gen := rfl

@[simp] theorem setPort_inflight (s : State) (r : Option Response) : (setPort s r).inflight = s.inflight := rfl

@[simp] theorem setPort_host (s : State) (r : Option Response) : (setPort s r).host = s.host := rfl

@[simp] theorem setPort_delivered (s : State) (r : Option Response) : (setPort s r).delivered = s.delivered := rfl

@[simp] theorem setPort_rspValid (s : State) (r : Option Response) : (setPort s r).rspValid = r.isSome := rfl

@[simp] theorem setPort_some_rspData (s : State) (r : Response) : (setPort s (some r)).rspData = r.data := rfl

@[simp] theorem setPort_some_rspErr (s : State) (r : Response) : (setPort s (some r)).rspErr = r.err := rfl

@[simp] theorem setPort_none_rspData (s : State) : (setPort s none).rspData = 0#64 := rfl

@[simp] theorem setPort_none_rspErr (s : State) : (setPort s none).rspErr = 0#2 := rfl

/-- What is set on the port is what the host samples there. -/
@[simp] theorem portResponse_setPort (s : State) (r : Option Response) : portResponse (setPort s r) = r.toList := by
  cases r <;> rfl

/-! ### ageQueue -/

@[simp] theorem ageQueue_gen (s : State) : (ageQueue s).gen = s.gen := rfl

@[simp] theorem ageQueue_inflight (s : State) : (ageQueue s).inflight = s.inflight.map fun e => ⟨e.age + 1, e.rsp⟩ := rfl

@[simp] theorem ageQueue_rspValid (s : State) : (ageQueue s).rspValid = s.rspValid := rfl

@[simp] theorem ageQueue_rspData (s : State) : (ageQueue s).rspData = s.rspData := rfl

@[simp] theorem ageQueue_rspErr (s : State) : (ageQueue s).rspErr = s.rspErr := rfl

@[simp] theorem ageQueue_host (s : State) : (ageQueue s).host = s.host := rfl

@[simp] theorem ageQueue_delivered (s : State) : (ageQueue s).delivered = s.delivered := rfl

/-! ### consumePins -/

@[simp] theorem consumePins_gen (s : State) : (consumePins s).gen = s.gen := rfl

@[simp] theorem consumePins_inflight (s : State) : (consumePins s).inflight = s.inflight := rfl

@[simp] theorem consumePins_rspValid (s : State) : (consumePins s).rspValid = s.rspValid := rfl

@[simp] theorem consumePins_rspData (s : State) : (consumePins s).rspData = s.rspData := rfl

@[simp] theorem consumePins_rspErr (s : State) : (consumePins s).rspErr = s.rspErr := rfl

@[simp] theorem consumePins_host (s : State) : (consumePins s).host = s.host.tail := rfl

@[simp] theorem consumePins_delivered (s : State) : (consumePins s).delivered = s.delivered := rfl

/-! ### resetBlock -/

@[simp] theorem resetBlock_gen (s : State) : (resetBlock s).gen = none := rfl

@[simp] theorem resetBlock_inflight (s : State) : (resetBlock s).inflight = [] := rfl

@[simp] theorem resetBlock_rspValid (s : State) : (resetBlock s).rspValid = false := rfl

@[simp] theorem resetBlock_rspData (s : State) : (resetBlock s).rspData = 0#64 := rfl

@[simp] theorem resetBlock_rspErr (s : State) : (resetBlock s).rspErr = 0#2 := rfl

@[simp] theorem resetBlock_host (s : State) : (resetBlock s).host = s.host := rfl

@[simp] theorem resetBlock_delivered (s : State) : (resetBlock s).delivered = s.delivered := rfl

/-! ### present -/

@[simp] theorem present_gen (s : State) (p : Pins) : (s.present p).gen = s.gen := rfl

@[simp] theorem present_inflight (s : State) (p : Pins) : (s.present p).inflight = s.inflight := rfl

@[simp] theorem present_rspValid (s : State) (p : Pins) : (s.present p).rspValid = s.rspValid := rfl

@[simp] theorem present_rspData (s : State) (p : Pins) : (s.present p).rspData = s.rspData := rfl

@[simp] theorem present_rspErr (s : State) (p : Pins) : (s.present p).rspErr = s.rspErr := rfl

@[simp] theorem present_host (s : State) (p : Pins) : (s.present p).host = p :: s.host.tail := rfl

@[simp] theorem present_delivered (s : State) (p : Pins) : (s.present p).delivered = s.delivered := rfl

/-! ### reset -/

@[simp] theorem reset_gen : State.reset.gen = none := rfl

@[simp] theorem reset_inflight : State.reset.inflight = [] := rfl

@[simp] theorem reset_rspValid : State.reset.rspValid = false := rfl

@[simp] theorem reset_rspData : State.reset.rspData = 0#64 := rfl

@[simp] theorem reset_rspErr : State.reset.rspErr = 0#2 := rfl

@[simp] theorem reset_host : State.reset.host = [] := rfl

@[simp] theorem reset_delivered : State.reset.delivered = [] := rfl

/-! ### The pins at the coming edge -/

@[simp] theorem present_pins (s : State) (p : Pins) : (s.present p).pins = p := rfl

theorem pins_of_host_nil {s : State} (h : s.host = []) : s.pins = idlePins := by simp [State.pins, h]

theorem pins_of_host_cons {s : State} {p : Pins} {ps : List Pins} (h : s.host = p :: ps) : s.pins = p := by
  simp [State.pins, h]

end Sys2Proof.Machine
end

