-- ==== Sys2Proof/Laws/Ops.lean ====
section
/-! SUPPORT. One lemma per shared operation that says all it can do. -/

namespace Sys2Proof.Machine

/-! ### Reading S and advancing -/

theorem seeded_iff (s : State) : s.seeded = true ↔ ∃ v, s.gen = some v := by
  simp [State.seeded, Option.isSome_iff_exists]

theorem readS_of_some {s : State} {v : Word} (h : s.gen = some v) : s.readS = .ok v := by
  simp [State.readS, h]

theorem readS_of_none {s : State} (h : s.gen = none) : s.readS = .error .unspecifiedStateRead := by
  simp [State.readS, h]

theorem advance_of_some {s : State} {v : Word} (h : s.gen = some v) :
    advance s = .ok (mix64 (weylStep v), s.writeS (weylStep v)) := by
  simp [advance, readS_of_some h]

/-! ### The shared body of the NEXT commands -/

theorem nextValue_of_none (sel : MuxSelect) {s : State} (h : s.gen = none) :
    nextValue sel s = .next (reportError s .unseeded) := by
  simp [nextValue, State.seeded, h]

theorem nextValue_of_some (sel : MuxSelect) {s : State} {v : Word} (h : s.gen = some v) :
    nextValue sel s =
      .next (respond (s.writeS (weylStep v)) (outputMux sel (mix64 (weylStep v))) .none) := by
  simp [nextValue, State.seeded, h, advance_of_some h]

/-! ### The beginning of an edge -/

@[simp] theorem samplePort_gen (s : State) : (samplePort s).gen = s.gen := rfl

@[simp] theorem samplePort_inflight (s : State) : (samplePort s).inflight = s.inflight := rfl

@[simp] theorem samplePort_rspValid (s : State) : (samplePort s).rspValid = s.rspValid := rfl

@[simp] theorem samplePort_rspData (s : State) : (samplePort s).rspData = s.rspData := rfl

@[simp] theorem samplePort_rspErr (s : State) : (samplePort s).rspErr = s.rspErr := rfl

@[simp] theorem samplePort_host (s : State) : (samplePort s).host = s.host := rfl

@[simp] theorem samplePort_delivered (s : State) : (samplePort s).delivered = s.delivered ++ portResponse s := rfl

@[simp] theorem beginEdge_gen (s : State) :
    (beginEdge s).gen = s.gen := rfl

@[simp] theorem beginEdge_inflight (s : State) :
    (beginEdge s).inflight = s.inflight.map fun e => ⟨e.age + 1, e.rsp⟩ := rfl

@[simp] theorem beginEdge_rspValid (s : State) :
    (beginEdge s).rspValid = s.rspValid := rfl

@[simp] theorem beginEdge_rspData (s : State) :
    (beginEdge s).rspData = s.rspData := rfl

@[simp] theorem beginEdge_rspErr (s : State) :
    (beginEdge s).rspErr = s.rspErr := rfl

@[simp] theorem beginEdge_host (s : State) :
    (beginEdge s).host = s.host.tail := rfl

@[simp] theorem beginEdge_delivered (s : State) :
    (beginEdge s).delivered = s.delivered ++ portResponse s := rfl

/-- What the host presents at the edge is gone after its beginning. -/
theorem beginEdge_present (s : State) (p : Pins) : beginEdge (s.present p) = beginEdge s := rfl

/-! ### Driving the response port -/

theorem drivePort_nil (latency : Nat) {s : State} (h : s.inflight = []) :
    drivePort latency s = setPort s none := by
  cases s; subst h; rfl

theorem drivePort_due {latency : Nat} {s : State} {e : InFlight} {rest : List InFlight}
    (h : s.inflight = e :: rest) (due : latency ≤ e.age + 1) :
    drivePort latency s = setPort { s with inflight := rest } (some e.rsp) := by
  simp [drivePort, splitDue, h, due]

theorem drivePort_notDue {latency : Nat} {s : State} {e : InFlight} {rest : List InFlight}
    (h : s.inflight = e :: rest) (notDue : ¬ latency ≤ e.age + 1) :
    drivePort latency s = setPort s none := by
  cases s; subst h; simp [drivePort, splitDue, notDue]

/-- Everything that driving the port can do: it clears the port, or it moves the oldest response onto it. -/
theorem drivePort_cases (latency : Nat) (s : State) :
    drivePort latency s = setPort s none ∨
      ∃ e rest, s.inflight = e :: rest ∧ latency ≤ e.age + 1 ∧
        drivePort latency s = setPort { s with inflight := rest } (some e.rsp) := by
  match h : s.inflight with
  | [] => exact .inl (drivePort_nil latency h)
  | e :: rest =>
    by_cases due : latency ≤ e.age + 1
    · exact .inr ⟨e, rest, rfl, due, drivePort_due h due⟩
    · exact .inl (drivePort_notDue h due)

@[simp] theorem drivePort_gen (latency : Nat) (s : State) : (drivePort latency s).gen = s.gen := rfl

@[simp] theorem drivePort_host (latency : Nat) (s : State) : (drivePort latency s).host = s.host := rfl

@[simp] theorem drivePort_delivered (latency : Nat) (s : State) :
    (drivePort latency s).delivered = s.delivered := rfl

end Sys2Proof.Machine
end

