-- ==== Sys2Proof/Laws/Exec.lean ====
section
/-! SUPPORT. What a command can do, and what an edge can do. -/

namespace Sys2Proof.Machine

/-- Everything a command can do: it changes (S, seeded), it adds at most one response at age 0, and the data of
a response that reports an error is 0. -/
theorem exec_shape (i : Instr) (s : State) :
    ∃ (g : Option Word) (rs : List Response),
      exec i s = .next { s with gen := g, inflight := s.inflight ++ rs.map (InFlight.mk 0) } ∧
        rs.length ≤ 1 ∧ ∀ r ∈ rs, r.err = 0#2 ∨ r.data = 0#64 := by
  have failed (e : ErrCode) : ∃ (g : Option Word) (rs : List Response),
      Host.Outcome.next (φ := Fault) (ρ := Refusal) (reportError s e) =
        .next { s with gen := g, inflight := s.inflight ++ rs.map (InFlight.mk 0) } ∧
        rs.length ≤ 1 ∧ ∀ r ∈ rs, r.err = 0#2 ∨ r.data = 0#64 :=
    ⟨s.gen, [⟨0#64, e.bits⟩], rfl, by simp, by simp⟩
  have drawn (sel : MuxSelect) : ∃ (g : Option Word) (rs : List Response),
      nextValue sel s = .next { s with gen := g, inflight := s.inflight ++ rs.map (InFlight.mk 0) } ∧
        rs.length ≤ 1 ∧ ∀ r ∈ rs, r.err = 0#2 ∨ r.data = 0#64 := by
    match h : s.gen with
    | none => rw [nextValue_of_none sel h]; exact failed .unseeded
    | some v =>
      rw [nextValue_of_some sel h]
      exact ⟨some (weylStep v), [⟨outputMux sel (mix64 (weylStep v)), 0b00#2⟩], rfl, by simp, by simp⟩
  cases i with
  | nop arg => exact ⟨s.gen, [], by simp [exec, execNop], by simp, by simp⟩
  | seed arg => exact ⟨some arg, [⟨0#64, 0b00#2⟩], rfl, by simp, by simp⟩
  | nextRaw arg => exact drawn .raw
  | nextBnd arg =>
    by_cases h : boundInvalid (boundOperand arg) = true
    · have : exec (.nextBnd arg) s = .next (reportError s .invalidArgument) := by simp [exec, execNextBnd, h]
      rw [this]; exact failed .invalidArgument
    · have : exec (.nextBnd arg) s = nextValue (.bounded (boundOperand arg)) s := by simp [exec, execNextBnd, h]
      rw [this]; exact drawn _
  | nextFlt arg => exact drawn .float
  | reservedOp5 arg => exact failed .illegalCommand
  | reservedOp6 arg => exact failed .illegalCommand
  | reservedOp7 arg => exact failed .illegalCommand

/-! ### The four kinds of edge -/

theorem clockEdge_reset (latency : Nat) {s : State} (h : s.pins.rst = some true) :
    clockEdge latency s = .next (resetBlock (beginEdge s)) := by
  simp [clockEdge, h]

theorem clockEdge_idle (latency : Nat) {s : State} (hr : s.pins.rst = some false)
    (hv : s.pins.cmdValid = some false) :
    clockEdge latency s = .next (drivePort latency (beginEdge s)) := by
  simp [clockEdge, hr, hv]

theorem clockEdge_command (latency : Nat) {s : State} {op : Op} {arg : Word}
    (h : s.pins = commandPins op arg) :
    clockEdge latency s = acceptCommand latency op arg (beginEdge s) := by
  simp [clockEdge, h, commandPins]

/-- An accepted command always completes: its effect, then the response port. -/
theorem acceptCommand_shape (latency : Nat) (op : Op) (arg : Word) (s : State) :
    ∃ (g : Option Word) (rs : List Response),
      exec (decode (commandWord op arg)) s =
          .next { s with gen := g, inflight := s.inflight ++ rs.map (InFlight.mk 0) } ∧
        acceptCommand latency op arg s =
          .next (drivePort latency { s with gen := g, inflight := s.inflight ++ rs.map (InFlight.mk 0) }) ∧
        rs.length ≤ 1 ∧ ∀ r ∈ rs, r.err = 0#2 ∨ r.data = 0#64 := by
  obtain ⟨g, rs, he, hl, ho⟩ := exec_shape (decode (commandWord op arg)) s
  exact ⟨g, rs, he, by simp [acceptCommand, he], hl, ho⟩

/-- Everything an edge that answers a next state can be: a reset edge, an edge with no command, or an edge that
accepts a command. -/
theorem clockEdge_cases {latency : Nat} {s t : State} (h : clockEdge latency s = .next t) :
    (s.pins.rst = some true ∧ t = resetBlock (beginEdge s)) ∨
    (s.pins.rst = some false ∧ s.pins.cmdValid = some false ∧ t = drivePort latency (beginEdge s)) ∨
    (∃ op arg, s.pins = commandPins op arg ∧ acceptCommand latency op arg (beginEdge s) = .next t) := by
  rcases hp : s.pins with ⟨rst, valid, op, arg⟩
  match rst, valid, op, arg, hp with
  | none, _, _, _, hp => simp [clockEdge, hp] at h
  | some true, _, _, _, hp =>
    rw [clockEdge_reset latency (by rw [hp])] at h
    exact .inl ⟨rfl, by simpa using h.symm⟩
  | some false, none, _, _, hp => simp [clockEdge, hp] at h
  | some false, some false, _, _, hp =>
    rw [clockEdge_idle latency (by rw [hp]) (by rw [hp])] at h
    exact .inr (.inl ⟨rfl, rfl, by simpa using h.symm⟩)
  | some false, some true, none, _, hp => simp [clockEdge, hp] at h
  | some false, some true, some _, none, hp => simp [clockEdge, hp] at h
  | some false, some true, some op, some arg, hp =>
    rw [clockEdge_command latency (op := op) (arg := arg) (by rw [hp]; rfl)] at h
    exact .inr (.inr ⟨op, arg, rfl, h⟩)

end Sys2Proof.Machine
end

