-- ==== Sys2Proof/Laws/PerInstr.lean ====
section
/-! SUPPORT. One statement per instruction as syntax: its command word lies in its own row of
spec/opcode_table.json, whatever its arg (30_encoding.md R61). -/

namespace Sys2Proof.Laws.InTable

/-- The command word of the instruction has the fixed bits of the instruction's row. -/
def Statement (i : Instr) : Prop := i.tableRow.covers (encode i) = true

/-- The fixed bits of a row are the op field: an arg does not touch them. -/
theorem covers_of_op (op : Op) (arg : Word) :
    (TableRow.mk 0x70000000000000000#67 (commandWord op 0#64)).covers (commandWord op arg) = true := by
  have mask : (0x70000000000000000#67 : BitVec (3 + 64)) = 7#3 ++ 0#64 := by decide
  have all : op &&& 7#3 = op := by revert op; decide
  have word : HAnd.hAnd (α := BitVec (3 + 64)) (op ++ arg) (0x70000000000000000#67) = op ++ 0#64 := by
    rw [mask, BitVec.and_append, all, BitVec.and_zero]
  exact decide_eq_true word

theorem nop (arg : Word) : Statement (.nop arg) := covers_of_op 0b000#3 arg

theorem seed (arg : Word) : Statement (.seed arg) := covers_of_op 0b001#3 arg

theorem nextRaw (arg : Word) : Statement (.nextRaw arg) := covers_of_op 0b010#3 arg

theorem nextBnd (arg : Word) : Statement (.nextBnd arg) := covers_of_op 0b011#3 arg

theorem nextFlt (arg : Word) : Statement (.nextFlt arg) := covers_of_op 0b100#3 arg

theorem reservedOp5 (arg : Word) : Statement (.reservedOp5 arg) := covers_of_op 0b101#3 arg

theorem reservedOp6 (arg : Word) : Statement (.reservedOp6 arg) := covers_of_op 0b110#3 arg

theorem reservedOp7 (arg : Word) : Statement (.reservedOp7 arg) := covers_of_op 0b111#3 arg

end Sys2Proof.Laws.InTable
end

