-- ==== Sys2Proof/Laws/Run.lean ====
section
/-! SUPPORT. Small lemmas about runs and about the terms of Safety.lean. -/

namespace Sys2Proof.Safety

open Sys2Proof.Machine

/-- A run of one edge more takes the first edge and goes on from there. -/
theorem run_succ (M : Host.Core) (k : Nat) {s t : M.State} (h : M.step s = .next t) :
    M.run (k + 1) s = M.run k t := by
  simp only [Host.Core.run, h]

@[simp] theorem schedule_length (n : Nat) (s : State) : (schedule n s).length = n := by
  induction n generalizing s with
  | zero => rfl
  | succ n ih => simp [schedule, ih]

/-- The schedule depends on the host's list alone. -/
theorem schedule_congr (n : Nat) {s t : State} (h : s.host = t.host) : schedule n s = schedule n t := by
  induction n generalizing s t with
  | zero => rfl
  | succ n ih =>
    simp only [schedule, State.pins, h]
    rw [ih (s := consumePins s) (t := consumePins t) (by simp [h])]

@[simp] theorem answers_length (ps : List Pins) (g : Option Word) : (answers ps g).length = ps.length := by
  induction ps generalizing g with
  | nil => rfl
  | cons p ps ih => simp [answers, ih]

theorem answers_append (ps qs : List Pins) (g : Option Word) :
    answers (ps ++ qs) g = answers ps g ++ answers qs (genAfter ps g) := by
  induction ps generalizing g with
  | nil => rfl
  | cons p ps ih => simp [answers, genAfter, ih]

theorem genAfter_append (ps qs : List Pins) (g : Option Word) :
    genAfter (ps ++ qs) g = genAfter qs (genAfter ps g) := by
  induction ps generalizing g with
  | nil => rfl
  | cons p ps ih => simp [genAfter, ih]

/-- Driving the port moves a response along and loses none. -/
theorem issued_drivePort (latency : Nat) (s : State) :
    issued (drivePort latency s) = s.delivered ++ s.inflight.map InFlight.rsp := by
  obtain h | ⟨e, rest, hi, -, h⟩ := drivePort_cases latency s
  · rw [h]; simp [issued]
  · rw [h]; simp [issued, hi]

end Sys2Proof.Safety
end

