-- ==== Sys2Proof/Tests/Slice0.lean ====
section
/-! SUPPORT. Tests of the model against the vectors of 95_test_vectors.md and the examples of the rules, and a
witness for the hypotheses of each statement. -/

namespace Sys2Proof.Tests

open Sys2Proof.Machine Sys2Proof.Safety

/-- A block with S = `v` and nothing else going on. -/
def seededWith (v : Word) : State := { State.reset with gen := some v }

/-- The response a command adds to an empty queue, and (S, seeded) after it. -/
def outcomeOf (i : Instr) (s : State) : Option (Option Word × List Response) :=
  match exec i s with
  | .next t => some (t.gen, t.inflight.map InFlight.rsp)
  | .fault _ => none
  | .refused _ => none

/-! ### Well-formedness: what each check refuses -/

theorem test_wellFormed_refuses_op8 : fieldsFit 8 0 = false := by decide

theorem test_wellFormed_refuses_wide_arg : fieldsFit 1 (2 ^ 64) = false := by decide

theorem test_wellFormed_refuses_wide_number : commandNumberFits (2 ^ 67) = false := by decide

theorem test_wellFormed_refuses_assembler_number : AsmLine.wellFormed (.seed (2 ^ 64)) = false := by decide

theorem test_wellFormed_accepts_largest : (Instr.reservedOp7 0xFFFFFFFFFFFFFFFF#64).wellFormed = true := by decide

/-! ### Decoding: command words written out from 30_encoding.md R60, R61 and 95_test_vectors.md -/

theorem test_decode_nop : decode 0x00000000000001234#67 = .nop 0x1234#64 := by decide

theorem test_decode_seed : decode 0x1000000000135025E#67 = .seed 20251230#64 := by decide

theorem test_decode_nextRaw : decode 0x2000000000000FFFF#67 = .nextRaw 0xFFFF#64 := by decide

theorem test_decode_nextBnd : decode 0x30000000000000064#67 = .nextBnd 100#64 := by decide

theorem test_decode_nextFlt : decode 0x40000000000000000#67 = .nextFlt 0#64 := by decide

theorem test_decode_reservedOp5 : decode 0x50000000000001234#67 = .reservedOp5 0x1234#64 := by decide

theorem test_decode_reservedOp6 : decode 0x60000000000000000#67 = .reservedOp6 0#64 := by decide

theorem test_decode_reservedOp7 : decode 0x700000000DEADBEEF#67 = .reservedOp7 0xDEADBEEF#64 := by decide

theorem test_encode_seed : encode (.seed 20251230#64) = 0x1000000000135025E#67 := by decide

theorem test_decodeTableWord_nextBnd : decodeTableWord 72 0x3000000000000000A = some (.nextBnd 10#64) := by decide

theorem test_decodeTableWord_too_wide : decodeTableWord 72 0x80000000000000000 = none := by decide

/-! ### The datapath: V-ADD, V-MIX, V-FLT -/

theorem test_weylStep_wraps : weylStep 0xFFFFFFFFFFFFFFFF#64 = 0x9E3779B97F4A7C14#64 := by decide

theorem test_round1_golden : round1 0x9E3779B9807F7E73#64 = 0x845BA23150B18CAD#64 := by decide

theorem test_round2_golden : round2 0x845BA23150B18CAD#64 = 0xAB98432DA9DAE0ED#64 := by decide

theorem test_mix64_golden : mix64 0x9E3779B9807F7E73#64 = 0xAB98432CFEEA66B6#64 := by decide

theorem test_mix64_all_ones : mix64 0xFFFFFFFFFFFFFFFF#64 = 0xB4D055FCF2CBBD7B#64 := by decide

theorem test_float_smallest : f64Bits (floatMantissa 0x800#64) = 0x3CA0000000000000#64 := by decide

theorem test_float_largest : f64Bits (floatMantissa 0xFFFFFFFFFFFFFFFF#64) = 0x3FEFFFFFFFFFFFFF#64 := by decide

theorem test_float_seventh_bit : f64Bits (floatMantissa 0x1CC977691B7EDD4A#64) = 0x3FBCC977691B7ED8#64 := by decide

/-! ### One step of each command: V-CTL, V-SEED0, V-BND, V-FLT -/

theorem test_exec_nop : outcomeOf (.nop 0x1234#64) (seededWith 5#64) = some (some 5#64, []) := by decide

theorem test_exec_seed :
    outcomeOf (.seed 0xFFFFFFFFFFFFFFFF#64) State.reset =
      some (some 0xFFFFFFFFFFFFFFFF#64, [⟨0#64, 0b00#2⟩]) := by decide

theorem test_exec_nextRaw :
    outcomeOf (.nextRaw 0xFFFF#64) (seededWith 5#64) =
      some (some 0x9E3779B97F4A7C1A#64, [⟨0x63033B0CA389C35A#64, 0b00#2⟩]) := by decide

theorem test_exec_nextRaw_unseeded :
    outcomeOf (.nextRaw 0#64) State.reset = some (none, [⟨0#64, 0b10#2⟩]) := by decide

theorem test_exec_nextBnd :
    outcomeOf (.nextBnd 0xE220A8397B1DCDAE#64) (seededWith 0#64) =
      some (some 0x9E3779B97F4A7C15#64, [⟨1#64, 0b00#2⟩]) := by decide

theorem test_exec_nextBnd_zero_before_unseeded :
    outcomeOf (.nextBnd 0#64) State.reset = some (none, [⟨0#64, 0b01#2⟩]) := by decide

theorem test_exec_nextFlt :
    outcomeOf (.nextFlt 0#64) (seededWith 0#64) =
      some (some 0x9E3779B97F4A7C15#64, [⟨0x3FEC4415072F63B9#64, 0b00#2⟩]) := by decide

theorem test_exec_reservedOp5 :
    outcomeOf (.reservedOp5 0#64) (seededWith 5#64) = some (some 5#64, [⟨0#64, 0b11#2⟩]) := by decide

theorem test_exec_reservedOp6 :
    outcomeOf (.reservedOp6 0#64) State.reset = some (none, [⟨0#64, 0b11#2⟩]) := by decide

theorem test_exec_reservedOp7 :
    outcomeOf (.reservedOp7 0xDEADBEEF#64) (seededWith 5#64) = some (some 5#64, [⟨0#64, 0b11#2⟩]) := by decide

/-! ### One edge: V-TIME, P4 and P5 -/

/-- The response port after one edge with a LATENCY of one's choice. -/
def portAfter (latency : Nat) (s : State) : Option (List Response) :=
  match clockEdge latency s with
  | .next t => some (portResponse t)
  | .fault _ => none
  | .refused _ => none

theorem test_edge_latency_1_shows_at_once :
    portAfter 1 (State.reset.present (commandPins 0b001#3 0#64)) = some [⟨0#64, 0b00#2⟩] := by decide

theorem test_edge_latency_3_waits :
    portAfter 3 { State.reset with inflight := [⟨0, ⟨7#64, 0b00#2⟩⟩] } = some [] := by decide

theorem test_edge_latency_3_shows :
    portAfter 3 { State.reset with inflight := [⟨1, ⟨7#64, 0b00#2⟩⟩] } = some [⟨7#64, 0b00#2⟩] := by decide

theorem test_edge_reset_discards :
    portAfter 3 (State.present { State.reset with inflight := [⟨1, ⟨7#64, 0b00#2⟩⟩] } resetPins) = some [] := by
  decide

theorem test_step_refuses_undriven_command :
    (match step (State.reset.present undrivenCommandPins) with
      | .refused r => some r
      | .next _ => none
      | .fault _ => none) = some .undefinedCommand := by decide

theorem test_step_runs_fetch_word :
    (match step (State.reset.withFetchWord 72 0x1000000000135025E) with
      | .next t => t.gen
      | .fault _ => none
      | .refused _ => none) = some 20251230#64 := by decide

/-! ### Assembler text and software operations (30_encoding.md R68, R69) -/

theorem test_parse_seed : parseLine "SEED 20251230 ; golden".toList = some (.seed 20251230) := by decide

theorem test_parse_cmd : parseLine ".cmd 7, 0xDEADBEEF".toList = some (.cmd 7 0xDEADBEEF) := by decide

theorem test_parse_refuses_wide_number : parseLine "SEED 18446744073709551616".toList = none := by decide

theorem test_software_negative_seed : seedOfInteger (-1) = 0xFFFFFFFFFFFFFFFF#64 := by decide

theorem test_software_wide_bound : boundCommand (2 ^ 64) = .nextRaw 0#64 := by decide

/-! ### Witnesses: each statement's hypotheses are met, at the bounds of each range -/

theorem witness_NumbersDecodeByTheirFields_largest :
    2 ^ 67 - 1 < 2 ^ 67 ∧ decodeNumber (2 ^ 67 - 1) = .ok (.reservedOp7 0xFFFFFFFFFFFFFFFF#64) := by decide

theorem witness_NumbersDecodeByTheirFields_too_wide :
    2 ^ 67 ≤ 2 ^ 67 ∧ decodeNumber (2 ^ 67) = .error .widerThanCommandWord := by decide

theorem witness_NextRawRespondsWithTheMix : (seededWith 5#64).gen = some 5#64 := by decide

theorem witness_NextBndRespondsWithTheRemainder :
    (seededWith 5#64).gen = some 5#64 ∧ (1#64 : Word) ≠ 0#64 := by decide

theorem witness_NextFltRespondsWithTheFloat : (seededWith 5#64).gen = some 5#64 := by decide

theorem witness_UnseededNextCommandsFail : State.reset.gen = none ∧ (1#64 : Word) ≠ 0#64 := by decide

theorem witness_BoundZeroIsInvalidArgument :
    ∃ t : State, exec (.nextBnd 0#64) (seededWith 5#64) = .next t ∧
      t.inflight = (seededWith 5#64).inflight ++ [⟨0, ⟨0#64, 0b01#2⟩⟩] := ⟨_, rfl, rfl⟩

theorem witness_BoundZeroIsInvalidArgument_bounds :
    (0 : Int) ≤ 0 ∧ boundCommand 0 = .nextBnd 0#64 ∧ boundCommand 1 = .nextBnd 1#64 := by decide

theorem witness_FailedCommandsChangeNothing :
    ∃ t : State, exec (.nextRaw 0#64) State.reset = .next t ∧
      t.inflight = State.reset.inflight ++ [⟨0, ⟨0#64, 0b10#2⟩⟩] ∧ (0b10#2 : ErrBits) ≠ 0b00#2 :=
  ⟨_, rfl, rfl, by decide⟩

theorem witness_ErrorsHaveOnePriority :
    ∃ t : State, exec (.reservedOp5 0#64) State.reset = .next t ∧
      t.inflight = State.reset.inflight ++ [⟨0, ⟨0#64, 0b11#2⟩⟩] := ⟨_, rfl, rfl⟩

theorem witness_ErrorsHaveOnePriority_none :
    ∃ t : State, exec (.seed 0#64) State.reset = .next t ∧
      t.inflight = State.reset.inflight ++ [⟨0, ⟨0#64, 0b00#2⟩⟩] := ⟨_, rfl, rfl⟩

theorem witness_CommandsKeepEverythingElse :
    ∃ t : State, exec (.nextBnd 0#64) (seededWith 5#64) = .next t ∧ isSeed (.nextBnd 0#64) = false ∧
      isDrawing (.nextBnd 0#64) = false := ⟨_, rfl, rfl, rfl⟩

theorem witness_ArgIsReadBySeedAndBoundOnly :
    (seededWith 5#64).gen = some 5#64 ∧ (0xFFFFFFFFFFFFFFFF#64 : Word) ≠ 0#64 := by decide

theorem witness_AdvanceAddsThenMixes : (seededWith 0xFFFFFFFFFFFFFFFF#64).gen = some 0xFFFFFFFFFFFFFFFF#64 := by
  decide

theorem witness_MixerIsBijective : 1 ≤ 1 ∧ 1 ≤ 63 ∧ 63 ≤ 63 ∧ mixMul1.getLsbD 0 = true := by decide

theorem witness_SeededStateCountsSuccessfulNexts :
    ∀ c ∈ [Instr.nextRaw 0#64, .nextBnd 0#64, .nop 0#64], isSeed c = false := by decide

theorem witness_BoundedResultIsBelowTheBound :
    (seededWith 0#64).gen = some 0#64 ∧ (0xFFFFFFFFFFFFFFFF#64 : Word) ≠ 0#64 := by decide

theorem witness_BoundedCornerCases_powers :
    outputMux (.bounded (BitVec.ofNat 64 (2 ^ 1))) 0xE220A8397B1DCDAF#64 = 1#64 ∧
      outputMux (.bounded (BitVec.ofNat 64 (2 ^ 63))) 0xE220A8397B1DCDAF#64 = 0x6220A8397B1DCDAF#64 := by decide

theorem witness_BoundedCornerCases_above_raw :
    (0xE220A8397B1DCDAF#64).toNat < (0xE220A8397B1DCDB0#64).toNat ∧
      outputMux (.bounded 0xE220A8397B1DCDB0#64) 0xE220A8397B1DCDAF#64 = 0xE220A8397B1DCDAF#64 := by decide

theorem witness_BoundedCornerCases_wide_bound :
    2 ^ 64 ≤ 2 ^ 64 ∧ boundCommand ((2 ^ 64 : Nat) : Int) = .nextRaw 0#64 := by decide

theorem witness_BoundedBiasIsThatOfTheRemainder :
    (3#64 : Word) ≠ 0#64 ∧ (2#64 : Word).toNat < (3#64 : Word).toNat := by decide

theorem witness_FloatResultIsPositiveNormalOrZero :
    (1#53 : BitVec 53) ≠ 0#53 ∧ f64Bits 1#53 = 0x3CA0000000000000#64 := by decide

theorem witness_FloatCornerCases_smallest :
    (0x7FF#64 : Word).toNat < 0x800 ∧ outputMux .float 0x7FF#64 = 0#64 := by decide

theorem witness_FloatCornerCases_largest :
    0xFFFFFFFFFFFFF800 ≤ (0xFFFFFFFFFFFFF800#64 : Word).toNat ∧
      outputMux .float 0xFFFFFFFFFFFFF800#64 = 0x3FEFFFFFFFFFFFFF#64 := by decide

theorem witness_FloatCornerCases_low_bits :
    (0x800#64 : Word).extractLsb' 11 53 = (0xFFF#64 : Word).extractLsb' 11 53 := by decide

theorem witness_ResetEdgeLeavesTheResetValues : resetPins.rst = some true := by decide

theorem witness_ResetEdgeDeliversThePortResponse :
    (State.present { seededWith 5#64 with rspValid := true, rspData := 7#64 } resetPins).pins.rst = some true := by
  decide

theorem witness_EdgeWithoutCommandIsANop :
    idlePins.rst = some false ∧ idlePins.cmdValid = some false := by decide

theorem witness_StepRunsTheDecodedCommand :
    (State.reset.present (commandPins 0b001#3 7#64)).pins =
      commandPins (Instr.seed 7#64).op (Instr.seed 7#64).arg ∧ 67 ≤ 67 := by decide

theorem witness_StepStopsOnlyOnUndefinedInputs :
    definedPins idlePins = true ∧ definedPins resetPins = true ∧ definedPins (commandPins 0b111#3 0#64) = true ∧
      definedPins undrivenCommandPins = false := by decide

theorem witness_StepStopsOnlyOnUndefinedInputs_undefined :
    (State.reset.present ⟨none, none, none, none⟩).pins.rst = none ∧
      (State.reset.present ⟨some false, none, none, none⟩).pins.cmdValid = none ∧
      (State.reset.present undrivenCommandPins).pins.cmdOp = none := by decide

theorem witness_OnlySeedNextAndResetWriteS :
    ∃ t : State, step ((seededWith 5#64).present (commandPins 0b010#3 0#64)) = .next t := ⟨_, rfl⟩

/-- A seeded block with a response on its port, whatever its LATENCY. -/
theorem witness_PipelineIsKeptByEveryStep :
    PipelineOk Config.latency { seededWith 5#64 with rspValid := true, rspData := 7#64 } ∧
      ∃ t : State, step { seededWith 5#64 with rspValid := true, rspData := 7#64 } = .next t :=
  ⟨⟨by simp [seededWith], by simp [seededWith], by simp [seededWith], .inl rfl, by simp⟩, _, rfl⟩

theorem witness_PipelineHoldsAfterReset :
    (State.reset.present resetPins).pins.rst = some true ∧
      ∃ t : State, step (State.reset.present resetPins) = .next t := ⟨rfl, _, rfl⟩

theorem witness_AtMostLatencyResponsesAreOutstanding :
    PipelineOk Config.latency { seededWith 5#64 with rspValid := true, rspData := 7#64 } :=
  witness_PipelineIsKeptByEveryStep.1

/-- A block with a schedule: SEED, a reset edge, NEXT_RAW. -/
def scheduled : State :=
  { State.reset with host := [commandPins 0b001#3 7#64, resetPins, commandPins 0b010#3 0#64] }

theorem witness_CommandsTakeEffectInOrder : ∀ p ∈ schedule 4 scheduled, definedPins p = true := by decide

theorem witness_ResponsesAreSampledAfterLatencyEdges :
    quiet scheduled ∧ ∀ p ∈ schedule 4 scheduled, definedPins p = true :=
  ⟨⟨rfl, rfl, rfl, rfl⟩, by decide⟩

theorem witness_CompleteRunDeliversEveryResponse :
    quiet (State.present State.reset (commandPins 0b001#3 7#64)) ∧
      (State.present State.reset (commandPins 0b001#3 7#64)).host = [commandPins 0b001#3 7#64] ∧
      ∀ p ∈ [commandPins 0b001#3 7#64], runningPins p = true :=
  ⟨⟨rfl, rfl, rfl, rfl⟩, rfl, by decide⟩

theorem witness_ResponsesDoNotDependOnLatency :
    1 ≤ 1 ∧ ∀ p ∈ schedule 3 (State.present State.reset (commandPins 0b001#3 7#64)), runningPins p = true := by
  decide

theorem witness_BlockRefinesTheSoftwareGenerator : (seededWith 5#64).gen = some 5#64 := by decide

theorem witness_AssemblerLinesPresentTheirCommands :
    AsmLine.pins (.cmd 7 (2 ^ 64 - 1)) = some (commandPins 0b111#3 0xFFFFFFFFFFFFFFFF#64) ∧
      AsmLine.pins (.cmd 8 0) = none ∧ AsmLine.pins (.cmd 7 (2 ^ 64)) = none := by decide

end Sys2Proof.Tests
end

section
/-! PROOFS. The values of the reset state (10_state.md R30). -/

namespace Sys2Proof.Machine

/-- `seeded` is 0 exactly where S has no value (R22). -/
theorem seeded_eq_false_iff (s : State) : s.seeded = false ↔ s.gen = none := by
  simp [State.seeded]

/-- Settles O33: each field by the law of `State.reset` for it, and `seeded` because S has no value. -/
theorem resetValues : Obligations.ResetValues :=
  ⟨reset_gen, (seeded_eq_false_iff _).2 reset_gen, reset_inflight, reset_rspValid, reset_rspData, reset_rspErr⟩

end Sys2Proof.Machine
end

section
/-! PROOFS. What a command does with its arg, what an edge without a command does, and the arg that the host
presents for a software seed (30_encoding.md R62 to R64). -/

namespace Sys2Proof.Machine

open Sys2Proof.Safety

/-! ### What single commands do -/

/-- NOP does nothing (40_control.md R81). -/
@[simp] theorem exec_nop (arg : Word) (s : State) : exec (.nop arg) s = .next s := rfl

/-- SEED writes its arg to S and is acknowledged (40_control.md R82). -/
theorem exec_seed (arg : Word) (s : State) :
    exec (.seed arg) s = .next (respond (s.writeS arg) 0#64 .none) := rfl

/-- NEXT_RAW is the shared body of the NEXT commands, whatever its arg (41_advance_mix.md R96). -/
theorem exec_nextRaw (arg : Word) (s : State) : exec (.nextRaw arg) s = nextValue .raw s := rfl

/-- NEXT_BND with a valid bound is the shared body with that bound (42_accessors.md R111). -/
theorem exec_nextBnd_of_ne_zero {n : Word} (hn : n ≠ 0#64) (s : State) :
    exec (.nextBnd n) s = nextValue (.bounded n) s := by
  simp [exec, execNextBnd, boundOperand, boundInvalid, hn]

/-- NEXT_FLT is the shared body, whatever its arg (42_accessors.md R115). -/
theorem exec_nextFlt (arg : Word) (s : State) : exec (.nextFlt arg) s = nextValue .float s := rfl

/-- The first reserved command reports ILLEGAL_COMMAND, whatever its arg (40_control.md R84). -/
theorem exec_reservedOp5 (arg : Word) (s : State) :
    exec (.reservedOp5 arg) s = .next (reportError s .illegalCommand) := rfl

/-- The second reserved command reports ILLEGAL_COMMAND, whatever its arg (R84). -/
theorem exec_reservedOp6 (arg : Word) (s : State) :
    exec (.reservedOp6 arg) s = .next (reportError s .illegalCommand) := rfl

/-- The third reserved command reports ILLEGAL_COMMAND, whatever its arg (R84). -/
theorem exec_reservedOp7 (arg : Word) (s : State) :
    exec (.reservedOp7 arg) s = .next (reportError s .illegalCommand) := rfl

/-- On a seeded block, NEXT_BND with a valid bound advances S and responds with the raw value mod n. -/
theorem exec_nextBnd_of_some {n v : Word} {s : State} (hs : s.gen = some v) (hn : n ≠ 0#64) :
    exec (.nextBnd n) s =
      .next (respond (s.writeS (weylStep v)) (boundedInteger (mix64 (weylStep v)) n) .none) := by
  rw [exec_nextBnd_of_ne_zero hn, nextValue_of_some _ hs, outputMux]

/-! ### An edge without a command -/

/-- With no command presented, an edge lets time pass and drives the response port. -/
theorem step_present_idle (s : State) {p : Pins} (hr : p.rst = some false) (hv : p.cmdValid = some false) :
    step (s.present p) = .next (drivePort Config.latency (beginEdge s)) := by
  rw [step, clockEdge_idle (s := s.present p) _ hr hv, beginEdge_present]

/-- So does an edge that accepts a NOP, because the command it runs changes nothing. -/
theorem step_present_nop (s : State) (arg : Word) :
    step (s.present (commandPins 0b000#3 arg)) = .next (drivePort Config.latency (beginEdge s)) := by
  have hd : decode (commandWord 0b000#3 arg) = .nop arg := decode_commandWord 0b000#3 arg
  rw [step, clockEdge_command _ (present_pins s _), beginEdge_present, acceptCommand, hd, exec_nop]

/-- Such an edge neither adds nor loses a response: one on the port is delivered, one that is due goes onto it. -/
theorem issued_drivePort_beginEdge (latency : Nat) (s : State) :
    issued (drivePort latency (beginEdge s)) = issued s := by
  have rsps : (beginEdge s).inflight.map InFlight.rsp = s.inflight.map InFlight.rsp := by
    simp [Function.comp_def]
  rw [issued_drivePort, rsps, beginEdge_delivered, issued]

/-- Settles O36: both edges are the beginning of an edge followed by driving the port, which keep S and the
responses given so far. -/
theorem edgeWithoutCommandIsANop : Obligations.EdgeWithoutCommandIsANop := by
  intro s p hr hv
  have idle := step_present_idle s hr hv
  refine ⟨⟨_, idle, ?_, issued_drivePort_beginEdge _ s⟩, fun arg => ?_⟩
  · rw [drivePort_gen, beginEdge_gen]
  · rw [idle, step_present_nop]

/-! ### Who reads arg -/

/-- A command that ignores its arg has the same result for any two args: its result is written above with no arg
in it. -/
theorem exec_ignores_arg (a b : Word) (s : State) :
    exec (.nop a) s = exec (.nop b) s ∧ exec (.nextRaw a) s = exec (.nextRaw b) s ∧
    exec (.nextFlt a) s = exec (.nextFlt b) s ∧ exec (.reservedOp5 a) s = exec (.reservedOp5 b) s ∧
    exec (.reservedOp6 a) s = exec (.reservedOp6 b) s ∧ exec (.reservedOp7 a) s = exec (.reservedOp7 b) s := by
  simp only [exec_nop, exec_nextRaw, exec_nextFlt, exec_reservedOp5, exec_reservedOp6, exec_reservedOp7, and_self]

/-- Settles O18: decoding keeps arg, six commands ignore it, SEED writes it to S, and NEXT_BND divides by it. -/
theorem argIsReadBySeedAndBoundOnly : Obligations.ArgIsReadBySeedAndBoundOnly := by
  refine ⟨fun op arg => ?_, exec_ignores_arg, fun a s => ?_, fun n v s hs hn => ?_⟩
  · rw [decode_commandWord, decodeFields_arg]
  · exact ⟨_, exec_seed a s, writeS_gen s a⟩
  · exact ⟨_, _, exec_nextBnd_of_some hs hn, respond_inflight _ _ _, boundedInteger_toNat _ n⟩

/-! ### Software seeds -/

/-- Settles O48: the 64-bit pattern of an integer is its remainder mod 2^64, which is not negative. -/
theorem seedsAreReducedModulo : Obligations.SeedsAreReducedModulo := by
  intro seed
  have nonneg : 0 ≤ seed % 2 ^ 64 := Int.emod_nonneg _ (by decide)
  calc ((seedOfInteger seed).toNat : Int)
      = ((seed % 2 ^ 64).toNat : Int) := by rw [seedOfInteger, BitVec.toNat_ofInt]; rfl
    _ = seed % 2 ^ 64 := Int.toNat_of_nonneg nonneg

end Sys2Proof.Machine
end

section
/-! PROOFS. The commands as the pure function of 40_control.md R80, what NOP and the reserved op values do
(R81, R84), and the stream after a SEED (R83). -/

namespace Sys2Proof.Machine

open Sys2Proof.Safety

/-! ### Commands that read no state -/

/-- Settles O5: an edge with a NOP and an edge without a command both only begin an edge and drive the port. -/
theorem nopDoesNothing : Obligations.NopDoesNothing := by
  refine ⟨decode_commandWord 0b000#3, exec_nop, fun arg s => ?_⟩
  rw [step_present_nop, step_present_idle s rfl rfl]

/-- Settles O10: each reserved command is `reportError` with ILLEGAL_COMMAND, which only adds its response. -/
theorem reservedCommandsReportIllegal : Obligations.ReservedCommandsReportIllegal := by
  refine ⟨fun arg => ⟨?_, ?_, ?_⟩, fun arg s => ⟨?_, ?_, ?_⟩⟩
  · exact decode_commandWord 0b101#3 arg
  · exact decode_commandWord 0b110#3 arg
  · exact decode_commandWord 0b111#3 arg
  · exact exec_reservedOp5 arg s
  · exact exec_reservedOp6 arg s
  · exact exec_reservedOp7 arg s

/-! ### The commands as a pure function -/

/-- The block `s` after a command for which `execute` answers `result`: (S, seeded) is the first part, and the
response, if there is one, enters the queue (40_control.md R80, 10_state.md R28). -/
def afterExecute (s : State) (result : Option Word × Option (Word × ErrCode)) : State :=
  { s with
    gen := result.1
    inflight := s.inflight ++ (result.2.map fun r => InFlight.mk 0 (toResponse r)).toList }

@[simp] theorem afterExecute_gen (s : State) (result : Option Word × Option (Word × ErrCode)) :
    (afterExecute s result).gen = result.1 := rfl

@[simp] theorem afterExecute_inflight (s : State) (result : Option Word × Option (Word × ErrCode)) :
    (afterExecute s result).inflight =
      s.inflight ++ (result.2.map fun r => InFlight.mk 0 (toResponse r)).toList := rfl

/-- No response leaves the queue as it is. -/
theorem afterExecute_none (s : State) : afterExecute s (s.gen, none) = s := by
  simp [afterExecute]

/-- The body that the NEXT commands share is `drawnBy` with the multiplexer's selection, seeded or not. -/
theorem nextValue_eq_drawnBy (sel : MuxSelect) (s : State) :
    nextValue sel s = .next (afterExecute s (drawnBy (outputMux sel) s.gen)) := by
  match h : s.gen with
  | none =>
    have unchanged : reportError s .unseeded = afterExecute s (s.gen, some (0#64, .unseeded)) := rfl
    rw [nextValue_of_none sel h, unchanged, h, drawnBy]
  | some v => rw [nextValue_of_some sel h]; rfl

/-- NEXT_BND with bound 0 reports INVALID_ARGUMENT in every state (60_exceptions.md R132). -/
theorem exec_nextBnd_zero (s : State) : exec (.nextBnd 0#64) s = .next (reportError s .invalidArgument) := rfl

/-- Every command, in every state, is `execute` on its op and arg fields. -/
theorem exec_eq_execute (i : Instr) (s : State) :
    exec i s = .next (afterExecute s (execute i.op i.arg s.gen)) := by
  cases i with
  | nop arg => rw [exec_nop]; exact congrArg _ (afterExecute_none s).symm
  | seed arg => exact exec_seed arg s
  | nextRaw arg => rw [exec_nextRaw, nextValue_eq_drawnBy]; rfl
  | nextBnd n =>
    by_cases hn : n = 0#64
    · subst hn; exact exec_nextBnd_zero s
    · have valid : execute 0b011#3 n s.gen = drawnBy (outputMux (.bounded n)) s.gen := if_neg hn
      rw [exec_nextBnd_of_ne_zero hn, nextValue_eq_drawnBy, Instr.op, Instr.arg, valid]
  | nextFlt arg => rw [exec_nextFlt, nextValue_eq_drawnBy]; rfl
  | reservedOp5 arg => exact exec_reservedOp5 arg s
  | reservedOp6 arg => exact exec_reservedOp6 arg s
  | reservedOp7 arg => exact exec_reservedOp7 arg s

/-- Settles O11: the decoded command has the op and arg of its word, and `exec` is `execute` on those. -/
theorem execIsTheFunctionOfTheSpec : Obligations.ExecIsTheFunctionOfTheSpec := by
  intro op arg s
  rw [exec_eq_execute, decode_commandWord, decodeFields_op, decodeFields_arg, afterExecute]

/-! ### Runs of commands -/

/-- A list of commands runs its first command and goes on from there. -/
theorem execList_cons {i : Instr} {s u : State} (h : exec i s = .next u) (is : List Instr) :
    execList (i :: is) s = execList is u := by
  simp only [execList, h]

/-- A list of commands completes, and (S, seeded) alone fixes (S, seeded) at its end and the responses it adds
(10_state.md R29): nothing else of the state before it matters. -/
theorem execList_determined_by_gen (cmds : List Instr) {s s' : State} (h : s'.gen = s.gen) :
    ∃ (t t' : State) (rs : List InFlight),
      execList cmds s = .next t ∧ execList cmds s' = .next t' ∧
      t'.gen = t.gen ∧ t.inflight = s.inflight ++ rs ∧ t'.inflight = s'.inflight ++ rs := by
  induction cmds generalizing s s' with
  | nil => exact ⟨s, s', [], rfl, rfl, h, by simp, by simp⟩
  | cons i is ih =>
    have first := exec_eq_execute i s
    have first' := exec_eq_execute i s'
    rw [h] at first'
    obtain ⟨t, t', rs, run, run', gen, queue, queue'⟩ := ih (s := afterExecute s (execute i.op i.arg s.gen))
      (s' := afterExecute s' (execute i.op i.arg s.gen)) rfl
    rw [afterExecute_inflight, List.append_assoc] at queue queue'
    exact ⟨t, t', _, (execList_cons first is).trans run, (execList_cons first' is).trans run', gen, queue, queue'⟩

/-- Settles O47: SEED leaves the same (S, seeded) in both blocks and adds the same response, and from there
(S, seeded) alone fixes what the other commands do. -/
theorem seedForgetsThePast : Obligations.SeedForgetsThePast := by
  intro v cmds s s'
  obtain ⟨t, t', rs, run, run', gen, queue, queue'⟩ := execList_determined_by_gen cmds
    (s := respond (s.writeS v) 0#64 .none) (s' := respond (s'.writeS v) 0#64 .none) rfl
  rw [respond_inflight, writeS_inflight, List.append_assoc] at queue queue'
  exact ⟨t, t', _, (execList_cons (exec_seed v s) cmds).trans run,
    (execList_cons (exec_seed v s') cmds).trans run', gen, queue, queue'⟩

end Sys2Proof.Machine
end

section
/-! PROOFS. The adder and the mixer on numbers (41_advance_mix.md R91 to R95, R97), and why the mixer is a
bijection (R98, R99): an xor-shift is injective because no nonzero word equals a right shift of itself, and
a multiplication by an odd constant because that constant is coprime to 2^64. -/

namespace Sys2Proof.Machine

/-! ### The adder -/

/-- Settles O19: the Weyl step of v is the sum on numbers, and writing S touches no other field. -/
theorem advanceAddsThenMixes : Obligations.AdvanceAddsThenMixes := by
  intro v s hs
  exact ⟨weylStep v, weylStep_toNat v, advance_of_some hs⟩

/-! ### The rounds on numbers -/

theorem round1_toNat (z : Word) :
    (round1 z).toNat = (z.toNat ^^^ z.toNat / 2 ^ 30) * 0xBF58476D1CE4E5B9 % 2 ^ 64 := by
  rw [round1, BitVec.toNat_mul, xorShift_toNat, mixMul1_toNat]

theorem round2_toNat (z : Word) :
    (round2 z).toNat = (z.toNat ^^^ z.toNat / 2 ^ 27) * 0x94D049BB133111EB % 2 ^ 64 := by
  rw [round2, BitVec.toNat_mul, xorShift_toNat, mixMul2_toNat]

theorem round3_toNat (z : Word) : (round3 z).toNat = z.toNat ^^^ z.toNat / 2 ^ 31 := xorShift_toNat 31 z

/-- Settles O20: each round on numbers, and the shift of round 1 fills its 30 upper bits with zeros. -/
theorem mixerRoundsAreTheFormulas : Obligations.MixerRoundsAreTheFormulas := by
  refine ⟨fun z => ⟨?_, round1_toNat z⟩, round2_toNat, round3_toNat, fun x => by rw [mix64]⟩
  exact BitVec.toNat_ushiftRight_lt z 30 (by decide)

/-! ### Each step of the mixer is a bijection -/

theorem xorShift_xor (k : Nat) (a b : Word) : xorShift k (a ^^^ b) = xorShift k a ^^^ xorShift k b := by
  simp only [xorShift, BitVec.ushiftRight_xor_distrib]
  ac_rfl

/-- A word that the xor-shift maps to 0 equals its own right shift, which makes every nonzero word smaller. -/
theorem eq_zero_of_xorShift_eq_zero {k : Nat} (hk : 1 ≤ k) {d : Word} (h : xorShift k d = 0#64) : d = 0#64 := by
  have shifted : d = d >>> k := BitVec.xor_eq_zero_iff.mp h
  have fixed : d.toNat = d.toNat / 2 ^ k := by
    rw [← Nat.shiftRight_eq_div_pow, ← BitVec.toNat_ushiftRight, ← shifted]
  have zero : d.toNat = 0 := by
    by_contra nonzero
    exact (Nat.div_lt_self (Nat.pos_of_ne_zero nonzero) (Nat.one_lt_two_pow (by omega))).ne fixed.symm
  exact BitVec.eq_of_toNat_eq zero

theorem xorShift_bijective {k : Nat} (hk : 1 ≤ k) : Function.Bijective (xorShift k) := by
  refine Finite.injective_iff_bijective.mp fun a b h => ?_
  have difference : xorShift k (a ^^^ b) = 0#64 := by rw [xorShift_xor, h, BitVec.xor_self]
  exact BitVec.xor_eq_zero_iff.mp (eq_zero_of_xorShift_eq_zero hk difference)

/-- A word with bit 0 set is odd, so it has no factor in common with 2^64. -/
theorem coprime_toNat_of_odd {c : Word} (odd : c.getLsbD 0 = true) : Nat.Coprime (2 ^ 64) c.toNat := by
  have : c.toNat % 2 = 1 := by simpa [BitVec.getLsbD, Nat.testBit_zero] using odd
  exact (Nat.coprime_two_left.mpr (Nat.odd_iff.mpr this)).pow_left 64

theorem mul_odd_bijective {c : Word} (odd : c.getLsbD 0 = true) : Function.Bijective fun z : Word => z * c := by
  refine Finite.injective_iff_bijective.mp fun a b h => BitVec.eq_of_toNat_eq ?_
  have products : a.toNat * c.toNat ≡ b.toNat * c.toNat [MOD 2 ^ 64] := by
    simpa only [Nat.ModEq, BitVec.toNat_mul] using congrArg BitVec.toNat h
  have factors : a.toNat ≡ b.toNat [MOD 2 ^ 64] :=
    Nat.ModEq.cancel_right_of_coprime (coprime_toNat_of_odd odd) products
  exact factors.eq_of_lt_of_lt a.isLt b.isLt

/-! ### The mixer is a bijection -/

theorem round1_bijective : Function.Bijective round1 :=
  (mul_odd_bijective (c := mixMul1) (by decide)).comp (xorShift_bijective (by decide))

theorem round2_bijective : Function.Bijective round2 :=
  (mul_odd_bijective (c := mixMul2) (by decide)).comp (xorShift_bijective (by decide))

theorem round3_bijective : Function.Bijective round3 := xorShift_bijective (by decide)

theorem mix64_bijective : Function.Bijective mix64 :=
  round3_bijective.comp (round2_bijective.comp round1_bijective)

@[simp] theorem xorShift_zero (k : Nat) : xorShift k 0#64 = 0#64 := by simp [xorShift]

@[simp] theorem round1_zero : round1 0#64 = 0#64 := by rw [round1, xorShift_zero, BitVec.zero_mul]

@[simp] theorem round2_zero : round2 0#64 = 0#64 := by rw [round2, xorShift_zero, BitVec.zero_mul]

@[simp] theorem round3_zero : round3 0#64 = 0#64 := xorShift_zero 31

@[simp] theorem mix64_zero : mix64 0#64 = 0#64 := by rw [mix64, round1_zero, round2_zero, round3_zero]

/-- Only 0 is mixed to 0, because 0 is and the mixer is injective. -/
theorem mix64_eq_zero_iff (x : Word) : mix64 x = 0#64 ↔ x = 0#64 := by
  rw [← mix64_bijective.injective.eq_iff (a := x), mix64_zero]

/-- Settles O21: the two kinds of step are bijections, so their composition is, and the inverses are computed. -/
theorem mixerIsBijective : Obligations.MixerIsBijective :=
  ⟨fun _ hk _ => xorShift_bijective hk, fun _ odd => mul_odd_bijective odd, by decide, by decide,
    mix64_bijective, mix64_eq_zero_iff⟩

end Sys2Proof.Machine
end

section
/-! PROOFS. NEXT_BND: the remainder on numbers, and its corner cases (42_accessors.md R111 to R113). -/

namespace Sys2Proof.Machine

/-! ### The remainder unit -/

/-- The remainder is below a bound that is not 0. -/
theorem boundedInteger_toNat_lt (raw : Word) {n : Word} (hn : n ≠ 0#64) :
    (boundedInteger raw n).toNat < n.toNat := by
  rw [boundedInteger_toNat]
  exact Nat.mod_lt _ (Nat.pos_of_ne_zero (BitVec.toNat_ne.mp hn))

theorem boundedInteger_one (raw : Word) : boundedInteger raw 1#64 = 0#64 := BitVec.umod_one

theorem boundedInteger_self (n : Word) : boundedInteger n n = 0#64 := BitVec.umod_self

theorem boundedInteger_of_lt {raw n : Word} (h : raw.toNat < n.toNat) : boundedInteger raw n = raw :=
  BitVec.umod_eq_of_lt (BitVec.lt_def.mpr h)

/-- A power of two as the bound keeps the low bits of the raw value. -/
theorem boundedInteger_two_pow (raw : Word) {k : Nat} (hk : k ≤ 63) :
    boundedInteger raw (BitVec.ofNat 64 (2 ^ k)) = (raw.extractLsb' 0 k).setWidth 64 := by
  have bound : (BitVec.ofNat 64 (2 ^ k)).toNat = 2 ^ k :=
    Nat.mod_eq_of_lt (Nat.pow_lt_pow_right (by decide) (by omega))
  have low : ((raw.extractLsb' 0 k).setWidth 64).toNat = raw.toNat % 2 ^ k := by
    rw [BitVec.toNat_setWidth_of_le (by omega), BitVec.extractLsb'_toNat, Nat.shiftRight_zero]
  exact BitVec.eq_of_toNat_eq (by rw [boundedInteger_toNat, bound, low])

/-- Under the bound 2^64 − 1 only the raw value 2^64 − 1 is not below the bound, and it is the bound itself. -/
theorem boundedInteger_allOnes (raw : Word) :
    boundedInteger raw 0xFFFFFFFFFFFFFFFF#64 = if raw = 0xFFFFFFFFFFFFFFFF#64 then 0#64 else raw := by
  split
  case isTrue h => rw [h, boundedInteger_self]
  case isFalse h =>
    refine boundedInteger_of_lt ?_
    have below : raw.toNat ≠ 0xFFFFFFFFFFFFFFFF := fun e => h (BitVec.eq_of_toNat_eq e)
    have := raw.isLt
    show raw.toNat < 0xFFFFFFFFFFFFFFFF
    omega

/-! ### The bounds of the software -/

/-- A software bound of 2^64 or more is presented as NEXT_RAW (30_encoding.md R69). -/
theorem boundCommand_of_two_pow_le {n : Nat} (h : 2 ^ 64 ≤ n) : boundCommand n = .nextRaw 0#64 := by
  rw [boundCommand, if_neg (by omega), if_neg (by omega)]

/-! ### The obligations -/

/-- Settles O26: the response is the remainder, which is below n, and n is a 64-bit number. -/
theorem boundedResultIsBelowTheBound : Obligations.BoundedResultIsBelowTheBound := by
  intro n v s hs hn
  exact ⟨_, _, exec_nextBnd_of_some hs hn, respond_inflight _ _ _, boundedInteger_toNat_lt _ hn,
    Nat.le_sub_one_of_lt n.isLt⟩

/-- Settles O27: what the remainder unit gives for each bound, and the failure of the bound 0. -/
theorem boundedCornerCases : Obligations.BoundedCornerCases := by
  refine ⟨fun v s hs => ?_, fun raw k _ hk => boundedInteger_two_pow raw hk,
    fun raw n h => boundedInteger_of_lt h, boundedInteger_allOnes,
    fun n h => ⟨boundCommand_of_two_pow_le h, fun raw => ?_⟩, exec_nextBnd_zero⟩
  · rw [exec_nextBnd_of_some hs (by decide), boundedInteger_one]
    rfl
  · exact Nat.mod_eq_of_lt (raw.isLt.trans_le h)

end Sys2Proof.Machine
end

section
/-! PROOFS. F64Bits and the values of NEXT_FLT (42_accessors.md R115, R116, R118): the highest set bit of m gives
the exponent, the bits below it the fraction, and every 53-bit m is the mantissa of some raw value. -/

namespace Sys2Proof.Machine

open Sys2Proof.Safety

/-! ### The highest set bit -/

/-- The highest set bit e of m ≠ 0 is its binary logarithm: 2^e ≤ m < 2^(e+1), and e is at most 52. -/
theorem highestSetBit_bounds {m : BitVec 53} (hm : m ≠ 0#53) :
    highestSetBit m ≤ 52 ∧ 2 ^ highestSetBit m ≤ m.toNat ∧ m.toNat < 2 ^ (highestSetBit m + 1) := by
  have some_bit : ∃ i ≤ 52, m.getLsbD i = true := by
    obtain ⟨i, hi⟩ := Nat.exists_testBit_of_ne_zero (BitVec.toNat_ne.mp hm)
    exact ⟨i, Nat.le_of_lt_succ (BitVec.lt_of_getLsbD hi), hi⟩
  obtain ⟨set, le, clear⟩ := highestSetBitFrom_spec m 52 some_bit
  refine ⟨le, Nat.ge_two_pow_of_testBit set, Nat.lt_pow_two_of_testBit _ fun i hi => ?_⟩
  by_cases inside : i ≤ 52
  · exact clear i hi inside
  · exact BitVec.getLsbD_of_ge m i (by omega)

/-! ### The fields of the pattern -/

@[simp] theorem f64Bits_zero : f64Bits 0#53 = 0#64 := if_pos rfl

theorem biasedExponent_toNat {e : Nat} (he : e ≤ 52) : (biasedExponent e).toNat = e + 970 :=
  Nat.mod_eq_of_lt (by omega)

/-- Left-aligned, m is the leading 1 of weight 2^52 and the fraction below it. -/
theorem fractionBits_toNat {m : BitVec 53} {e : Nat} (he : e ≤ 52) (low : 2 ^ e ≤ m.toNat)
    (high : m.toNat < 2 ^ (e + 1)) : 2 ^ 52 + (fractionBits m e).toNat = m.toNat * 2 ^ (52 - e) := by
  have weight : 2 ^ e * 2 ^ (52 - e) = 2 ^ 52 := by rw [← pow_add, Nat.add_sub_cancel' he]
  have leading : 2 ^ 52 ≤ m.toNat * 2 ^ (52 - e) := weight ▸ Nat.mul_le_mul_right _ low
  have fits : m.toNat * 2 ^ (52 - e) < 2 ^ 53 := by
    calc m.toNat * 2 ^ (52 - e) < 2 ^ (e + 1) * 2 ^ (52 - e) :=
          Nat.mul_lt_mul_of_pos_right high (Nat.two_pow_pos _)
      _ = 2 ^ 53 := by rw [pow_succ, mul_right_comm, weight]; rfl
  rw [fractionBits, BitVec.toNat_setWidth, BitVec.toNat_shiftLeft, Nat.shiftLeft_eq]
  omega

/-! ### The value of the pattern -/

/-- The pattern of +0.0 has the value 0. -/
theorem binary64Value_zero : binary64Value 0#64 = some 0 := by
  simp [binary64Value]

/-- The value of a pattern with sign 0 and the biased exponent of a normal number. -/
theorem binary64Value_of_normal {b : BitVec 11} {f : BitVec 52} (pos : b.toNat ≠ 0) (finite : b.toNat ≠ 2047) :
    binary64Value (0#1 ++ b ++ f) = some ((1 + (f.toNat : ℚ) / 2 ^ 52) * 2 ^ ((b.toNat : ℤ) - 1023)) := by
  have sign : (0#1 ++ b ++ f).getLsbD 63 = false := by
    rw [BitVec.getLsbD_append, BitVec.getLsbD_append]
    rfl
  have exponent : (0#1 ++ b ++ f).extractLsb' 52 11 = b := by
    rw [BitVec.extractLsb'_append_eq_of_le (le_refl 52)]
    exact BitVec.extractLsb'_append_eq_right
  have fraction : (0#1 ++ b ++ f).extractLsb' 0 52 = f := BitVec.extractLsb'_append_eq_right
  rw [binary64Value, sign, exponent, fraction]
  simp [pos, finite]

/-- The leading 1 and the fraction F of m, scaled by the exponent e + 970, make up m / 2^53 again. -/
theorem normal_value_eq_quotient {m F e : Nat} (he : e ≤ 52) (aligned : 2 ^ 52 + F = m * 2 ^ (52 - e)) :
    (1 + (F : ℚ) / 2 ^ 52) * 2 ^ (((e + 970 : Nat) : ℤ) - 1023) = (m : ℚ) / 2 ^ 53 := by
  have scale : (2 : ℚ) ^ (((e + 970 : Nat) : ℤ) - 1023) = 2 ^ e / 2 ^ 53 := by
    rw [show ((e + 970 : Nat) : ℤ) - 1023 = (e : ℤ) - (53 : Nat) by omega, zpow_sub₀ two_ne_zero,
      zpow_natCast, zpow_natCast]
  have weight : (2 : ℚ) ^ (52 - e) * 2 ^ e = 2 ^ 52 := by rw [← pow_add, Nat.sub_add_cancel he]
  have significand : (2 : ℚ) ^ 52 + F = m * 2 ^ (52 - e) := by exact_mod_cast aligned
  calc (1 + (F : ℚ) / 2 ^ 52) * 2 ^ (((e + 970 : Nat) : ℤ) - 1023)
      = ((2 : ℚ) ^ 52 + F) * 2 ^ e / 2 ^ 52 / 2 ^ 53 := by rw [scale]; ring
    _ = (m : ℚ) * 2 ^ 52 / 2 ^ 52 / 2 ^ 53 := by rw [significand, mul_assoc, weight]
    _ = (m : ℚ) / 2 ^ 53 := by ring

/-- The fields of the pattern are those of a normal number, unless m = 0, where all are 0 (R116). -/
theorem binary64Value_f64Bits (m : BitVec 53) : binary64Value (f64Bits m) = some ((m.toNat : ℚ) / 2 ^ 53) := by
  by_cases hm : m = 0#53
  · subst hm
    rw [f64Bits_zero, binary64Value_zero]
    simp
  · obtain ⟨he, low, high⟩ := highestSetBit_bounds hm
    have exponent := biasedExponent_toNat he
    rw [f64Bits, if_neg hm, binary64Value_of_normal (by omega) (by omega), exponent,
      normal_value_eq_quotient he (fractionBits_toNat he low high)]

/-- Settles O29: the pattern of 0 is all zeros, and every pattern has the value m / 2^53. -/
theorem floatBitsEncodeTheQuotient : Obligations.FloatBitsEncodeTheQuotient :=
  ⟨f64Bits_zero, binary64Value_f64Bits⟩

/-! ### The values over all raw values -/

/-- Every 53-bit number is the mantissa of a raw value. -/
theorem floatMantissa_surjective : Function.Surjective floatMantissa := by
  intro m
  have bound := m.isLt
  refine ⟨BitVec.ofNat 64 (m.toNat * 2 ^ 11), BitVec.eq_of_toNat_eq ?_⟩
  rw [floatMantissa_toNat, BitVec.toNat_ofNat]
  omega

/-- The value of the float selection of the multiplexer. -/
theorem binary64Value_outputMux_float (raw : Word) :
    binary64Value (outputMux .float raw) = some (((floatMantissa raw).toNat : ℚ) / 2 ^ 53) :=
  binary64Value_f64Bits _

/-- A 53-bit multiple of 2^-53 is at most 1 - 2^-53. -/
theorem mantissa_quotient_le (m : BitVec 53) : (m.toNat : ℚ) / 2 ^ 53 ≤ 1 - 1 / 2 ^ 53 := by
  have bound : (m.toNat : ℚ) + 1 ≤ 2 ^ 53 := by exact_mod_cast m.isLt
  linarith

/-- Settles O31: the value of a raw value is its mantissa over 2^53, and the mantissa takes every 53-bit value. -/
theorem floatResultsAreTheMultiples : Obligations.FloatResultsAreTheMultiples := by
  refine ⟨Set.ext fun q => ⟨?_, ?_⟩, fun raw => ?_⟩
  · rintro ⟨raw, rfl⟩
    exact ⟨_, (floatMantissa raw).isLt, binary64Value_outputMux_float raw⟩
  · rintro ⟨k, hk, rfl⟩
    obtain ⟨raw, mantissa⟩ := floatMantissa_surjective (BitVec.ofNat 53 k)
    refine ⟨raw, (binary64Value_outputMux_float raw).trans ?_⟩
    rw [mantissa, BitVec.toNat_ofNat, Nat.mod_eq_of_lt hk]
  · have top := mantissa_quotient_le (floatMantissa raw)
    exact ⟨_, binary64Value_outputMux_float raw, by positivity, top, top.trans_lt (by norm_num)⟩

end Sys2Proof.Machine
end

section
/-! PROOFS. The one error of a command (60_exceptions.md R131 to R135): which error that is, that a failed command
is the response of that error and nothing else, and that the response of a command reports it. -/

namespace Sys2Proof.Machine

open Sys2Proof.Safety

/-! ### The error of a command -/

/-- The one error that a command reports on a block with (S, seeded) = `g`, in the order of R135. -/
def commandError (i : Instr) (g : Option Word) : ErrCode :=
  if 5 ≤ i.op.toNat then .illegalCommand
  else if i = .nextBnd 0#64 then .invalidArgument
  else if isDrawing i = true ∧ g = none then .unseeded
  else .none

/-- Each code of `commandError` on the port: R135 with the values of R131. -/
theorem commandError_bits (i : Instr) (g : Option Word) :
    (commandError i g).bits =
      if 5 ≤ i.op.toNat then 0b11#2
      else if i = .nextBnd 0#64 then 0b01#2
      else if isDrawing i = true ∧ g = none then 0b10#2
      else 0b00#2 := by
  rw [commandError]
  split_ifs <;> rfl

/-- NEXT_BND with bound 0 is the only command with INVALID_ARGUMENT. -/
theorem eq_nextBnd_zero_of_commandError_bits {i : Instr} {g : Option Word}
    (h : (commandError i g).bits = 0b01#2) : i = .nextBnd 0#64 := by
  by_contra other
  rw [commandError_bits, if_neg other] at h
  split_ifs at h <;> exact absurd h (by decide)

theorem isDrawing_nextBnd_of_ne_zero {n : Word} (hn : n ≠ 0#64) : isDrawing (.nextBnd n) = true := by
  simp [isDrawing, boundInvalid, hn]

theorem op_lt_of_isDrawing {i : Instr} (h : isDrawing i = true) : i.op.toNat < 5 := by
  cases i with
  | nextRaw _ | nextBnd _ | nextFlt _ => simp [Instr.op]
  | nop _ | seed _ | reservedOp5 _ | reservedOp6 _ | reservedOp7 _ => cases h

/-- A NEXT command with a valid bound can only fail with UNSEEDED. -/
theorem commandError_of_isDrawing {i : Instr} (h : isDrawing i = true) (g : Option Word) :
    commandError i g = if g = none then .unseeded else .none := by
  have legal : ¬ 5 ≤ i.op.toNat := Nat.not_le.mpr (op_lt_of_isDrawing h)
  have valid : i ≠ .nextBnd 0#64 := by
    rintro rfl
    exact absurd h (by decide)
  simp only [commandError, legal, valid, h, if_false, true_and]

/-! ### What a command does that fails, and what one reports that succeeds -/

/-- A drawing either fails with UNSEEDED and keeps (S, seeded), or its response has no error. -/
theorem drawnBy_fails_or_succeeds (reduce : Word → Word) {i : Instr} (h : isDrawing i = true) (g : Option Word) :
    drawnBy reduce g = (g, some (0#64, commandError i g)) ∨
      commandError i g = .none ∧ ∀ r ∈ (drawnBy reduce g).2, r.2 = .none := by
  rw [commandError_of_isDrawing h]
  cases g with
  | none => exact .inl rfl
  | some v => exact .inr ⟨rfl, by simp [drawnBy]⟩

/-- A command either keeps (S, seeded) and responds with data 0 and its error, or it has no error and neither has
its response. -/
theorem execute_fails_or_succeeds (i : Instr) (g : Option Word) :
    execute i.op i.arg g = (g, some (0#64, commandError i g)) ∨
      commandError i g = .none ∧ ∀ r ∈ (execute i.op i.arg g).2, r.2 = .none := by
  cases i with
  | nop arg => exact .inr ⟨rfl, by simp [execute, Instr.op]⟩
  | seed arg => exact .inr ⟨rfl, by simp [execute, Instr.op]⟩
  | nextRaw arg => exact drawnBy_fails_or_succeeds (fun raw => raw) (i := .nextRaw arg) rfl g
  | nextBnd n =>
    by_cases hn : n = 0#64
    · subst hn; exact .inl rfl
    · have valid : execute 0b011#3 n g = drawnBy (fun raw => raw % n) g := if_neg hn
      rw [Instr.op, Instr.arg, valid]
      exact drawnBy_fails_or_succeeds _ (isDrawing_nextBnd_of_ne_zero hn) g
  | nextFlt arg => exact drawnBy_fails_or_succeeds (outputMux .float) (i := .nextFlt arg) rfl g
  | reservedOp5 arg => exact .inl rfl
  | reservedOp6 arg => exact .inl rfl
  | reservedOp7 arg => exact .inl rfl

section
variable {i : Instr} {s t : State} {r : Response}

/-- The response that a command adds to the queue is that of `execute`. -/
theorem execute_of_added_response (run : exec i s = .next t) (added : t.inflight = s.inflight ++ [⟨0, r⟩]) :
    ∃ d e, execute i.op i.arg s.gen = (t.gen, some (d, e)) ∧ r = ⟨d, e.bits⟩ := by
  rw [exec_eq_execute] at run
  cases run
  rw [afterExecute_inflight, List.append_cancel_left_eq] at added
  match h : execute i.op i.arg s.gen with
  | (g, none) => simp [h] at added
  | (g, some (d, e)) =>
    rw [h] at added
    cases added
    exact ⟨d, e, by rw [afterExecute_gen], rfl⟩

/-- The response of a command either reports the command's error, with data 0 and (S, seeded) kept, or there is no
error to report. -/
theorem added_response_cases (run : exec i s = .next t) (added : t.inflight = s.inflight ++ [⟨0, r⟩]) :
    (t.gen = s.gen ∧ r = ⟨0#64, (commandError i s.gen).bits⟩) ∨
      (commandError i s.gen = .none ∧ r.err = 0b00#2) := by
  obtain ⟨d, e, result, rfl⟩ := execute_of_added_response run added
  rcases execute_fails_or_succeeds i s.gen with failed | ⟨noError, succeeded⟩
  · obtain ⟨gen, response⟩ := Prod.mk.inj (result.symm.trans failed)
    cases response
    exact .inl ⟨gen, rfl⟩
  · exact .inr ⟨noError, congrArg ErrCode.bits (succeeded (d, e) (congrArg Prod.snd result))⟩

/-- The response of a command reports the error of the command. -/
theorem added_response_err (run : exec i s = .next t) (added : t.inflight = s.inflight ++ [⟨0, r⟩]) :
    r.err = (commandError i s.gen).bits := by
  rcases added_response_cases run added with ⟨-, rfl⟩ | ⟨noError, ok⟩
  · rfl
  · rw [noError, ok, ErrCode.bits]

/-- A command whose response has an error keeps (S, seeded), and the data of that response is 0. -/
theorem unchanged_of_added_error (run : exec i s = .next t) (added : t.inflight = s.inflight ++ [⟨0, r⟩])
    (err : r.err ≠ 0b00#2) : t.gen = s.gen ∧ r.data = 0#64 := by
  rcases added_response_cases run added with ⟨gen, rfl⟩ | ⟨-, ok⟩
  · exact ⟨gen, rfl⟩
  · exact absurd ok err

end

/-- (S, seeded) alone fixes what a command makes of it and the response that the command adds. -/
theorem exec_determined_by_gen (j : Instr) {s t : State} (h : t.gen = s.gen) :
    ∃ (u u' : State) (rs : List InFlight), exec j s = .next u ∧ exec j t = .next u' ∧ u'.gen = u.gen ∧
      u.inflight = s.inflight ++ rs ∧ u'.inflight = t.inflight ++ rs := by
  have second := exec_eq_execute j t
  rw [h] at second
  exact ⟨_, _, _, exec_eq_execute j s, second, rfl, rfl, rfl⟩

/-! ### The obligations -/

/-- Settles O13: the bound 0 fails in every state, only it has the error INVALID_ARGUMENT, and every n ≤ 0 takes the
first branch of `boundCommand`. -/
theorem boundZeroIsInvalidArgument : Obligations.BoundZeroIsInvalidArgument := by
  refine ⟨exec_nextBnd_zero, fun i s t r run added err => ?_, fun n hn => if_pos hn⟩
  exact eq_nextBnd_zero_of_commandError_bits ((added_response_err run added).symm.trans err)

/-- Settles O14: a failed command keeps (S, seeded), and (S, seeded) fixes what the next command does. -/
theorem failedCommandsChangeNothing : Obligations.FailedCommandsChangeNothing := by
  intro i s t r run added err
  obtain ⟨gen, data⟩ := unchanged_of_added_error run added err
  exact ⟨gen, data, fun j => exec_determined_by_gen j gen⟩

/-- Settles O15: the response reports `commandError`, which is defined in the order of R135. -/
theorem errorsHaveOnePriority : Obligations.ErrorsHaveOnePriority :=
  fun i s _ _ run added => (added_response_err run added).trans (commandError_bits i s.gen)

/-- Settles O12: each of the three is the body that the NEXT commands share, which reports UNSEEDED. -/
theorem unseededNextCommandsFail : Obligations.UnseededNextCommandsFail := by
  refine ⟨reset_gen, fun s hs => ⟨fun arg => ?_, fun n hn => ?_, fun arg => ?_⟩⟩
  · rw [exec_nextRaw]
    exact nextValue_of_none .raw hs
  · rw [exec_nextBnd_of_ne_zero hn]
    exact nextValue_of_none (.bounded n) hs
  · rw [exec_nextFlt]
    exact nextValue_of_none .float hs

end Sys2Proof.Machine
end

section
/-! PROOFS. What a reset edge leaves (70_reset_and_hazards.md R150, R151). -/

namespace Sys2Proof.Machine

/-- A reset edge resets the block after the beginning of the edge, whatever stands on the command ports (R150). -/
theorem step_present_reset (s : State) {p : Pins} (h : p.rst = some true) :
    step (s.present p) = .next (resetBlock (beginEdge s)) := by
  rw [step, clockEdge_reset (s := s.present p) _ h, beginEdge_present]

/-- Settles O34: a reset edge completes in the state that `resetBlock` leaves, and that state does not depend on the
command ports. -/
theorem resetEdgeLeavesTheResetValues : Obligations.ResetEdgeLeavesTheResetValues := by
  intro s p hp
  refine ⟨⟨_, step_present_reset s hp, resetBlock_gen _, ?seeded, resetBlock_inflight _, resetBlock_rspValid _,
    resetBlock_rspData _, resetBlock_rspErr _⟩, fun q hq => ?ignoresPorts⟩
  case seeded => exact (seeded_eq_false_iff _).2 (resetBlock_gen _)
  case ignoresPorts => rw [step_present_reset s hp, step_present_reset s hq]

end Sys2Proof.Machine
end

section
/-! PROOFS. Decoding and encoding (30_encoding.md R60, R61), the opcode table, and the assembler lines (R68). -/

namespace Sys2Proof

open Sys2Proof.Machine

/-! ### A word and its instruction -/

@[simp] theorem decode_encode (i : Instr) : decode (encode i) = i := by
  rw [encode, decode_commandWord, decodeFields_of_instr]

@[simp] theorem encode_decode (cw : CommandWord) : encode (decode cw) = cw := by
  rw [encode, decode, decodeFields_op, decodeFields_arg, commandWord_fields]

/-- Settles O1: decoding reads the two fields of the word, and encoding joins them again. -/
theorem decodeAndEncodeAreInverse : Obligations.DecodeAndEncodeAreInverse :=
  ⟨decode_encode, encode_decode⟩

/-! ### Numbers -/

theorem decodeNumber_of_lt {w : Nat} (h : w < 2 ^ 67) : decodeNumber w = .ok (decode (BitVec.ofNat 67 w)) :=
  if_pos (decide_eq_true h)

theorem decodeNumber_of_le {w : Nat} (h : 2 ^ 67 ≤ w) : decodeNumber w = .error .widerThanCommandWord :=
  if_neg (by simpa [commandNumberFits] using h)

/-- The word of an instruction, as a number, is its op and arg side by side. -/
theorem encode_toNat (i : Instr) : (encode i).toNat = i.op.toNat * 2 ^ 64 + i.arg.toNat :=
  commandWord_toNat i.op i.arg

/-- Settles O2: a number that fits is the word of the instruction it decodes to. -/
theorem numbersDecodeByTheirFields : Obligations.NumbersDecodeByTheirFields := by
  refine ⟨fun w hw => ⟨decode (BitVec.ofNat 67 w), decodeNumber_of_lt hw, ?_, ?_, ?_⟩,
    fun w hw => decodeNumber_of_le hw, by decide⟩
  · rw [← encode_toNat, encode_decode, BitVec.toNat_ofNat, Nat.mod_eq_of_lt hw]
  · exact opField_commandWord _ _
  · exact argField_commandWord _ _

/-- Settles O4: each of the eight words is computed. -/
theorem writtenOutWordsDecode : Obligations.WrittenOutWordsDecode := by
  unfold Obligations.WrittenOutWordsDecode
  decide

/-! ### The opcode table -/

/-- The fixed bits of every row are an op value in CW[66:64]. -/
theorem row_of_opcodeTable {r : TableRow} (h : r ∈ opcodeTable) :
    r = ⟨0x70000000000000000#67, commandWord (opField r.fixedBits) 0#64⟩ := by
  revert r
  decide

/-- A row covers exactly the words with its op value. -/
theorem covers_iff_of_mem_opcodeTable {r : TableRow} (h : r ∈ opcodeTable) (cw : CommandWord) :
    r.covers cw = true ↔ opField r.fixedBits = opField cw := by
  have masked : cw &&& 0x70000000000000000#67 = commandWord (opField cw) 0#64 := by
    have covered := Laws.InTable.covers_of_op (opField cw) (argField cw)
    rw [commandWord_fields] at covered
    exact of_decide_eq_true covered
  rw [row_of_opcodeTable h, TableRow.covers, decide_eq_true_iff, masked, opField_commandWord]
  constructor
  · intro same
    simpa using congrArg opField same.symm
  · intro same
    rw [same]

/-- The row of a decoded instruction depends on its op value alone. -/
theorem decodeFields_tableRow (op : Op) (arg : Word) :
    (decodeFields op arg).tableRow = (decodeFields op 0#64).tableRow := by
  unfold decodeFields
  split <;> rfl

/-- Each op value stands in one row of the table. -/
theorem opcodeTable_filter_op (op : Op) :
    opcodeTable.filter (fun r => decide (opField r.fixedBits = op)) = [(decodeFields op 0#64).tableRow] := by
  revert op
  decide

/-- Settles O3: the rows that cover a word are those with its op value, of which there is one. -/
theorem commandWordsLieInOneRow : Obligations.CommandWordsLieInOneRow := by
  intro cw
  have byOp : ∀ r ∈ opcodeTable, r.covers cw = decide (opField r.fixedBits = opField cw) := fun r hr =>
    Bool.eq_iff_iff.mpr ((covers_iff_of_mem_opcodeTable hr cw).trans decide_eq_true_iff.symm)
  rw [List.filter_congr byOp, opcodeTable_filter_op, decode, decodeFields_tableRow _ (argField cw)]

/-! ### Assembler lines -/

/-- A line with an op and an arg number presents them when both fit their ports, and nothing otherwise. -/
theorem pins_of_fields {l : AsmLine} {op imm : Nat} (h : l.fields = some (op, imm)) :
    l.pins = if op < 8 ∧ imm < 2 ^ 64 then some (commandPins (BitVec.ofNat 3 op) (BitVec.ofNat 64 imm))
      else none := by
  simp [AsmLine.pins, AsmLine.wellFormed, h, fieldsFit]

theorem pins_of_fits {l : AsmLine} {op imm : Nat} (h : l.fields = some (op, imm)) (hop : op < 8)
    (himm : imm < 2 ^ 64) : l.pins = some (commandPins (BitVec.ofNat 3 op) (BitVec.ofNat 64 imm)) := by
  rw [pins_of_fields h, if_pos ⟨hop, himm⟩]

theorem pins_of_wide {l : AsmLine} {op imm : Nat} (h : l.fields = some (op, imm)) (wide : 8 ≤ op ∨ 2 ^ 64 ≤ imm) :
    l.pins = none := by
  rw [pins_of_fields h, if_neg (by omega)]

/-- Settles O50: the numbers of each line either fit the ports or do not. -/
theorem assemblerLinesPresentTheirCommands : Obligations.AssemblerLinesPresentTheirCommands := by
  refine ⟨fun imm himm => ⟨pins_of_fits rfl (by decide) himm, pins_of_fits rfl (by decide) himm,
      fun op hop => pins_of_fits rfl hop himm⟩,
    fun op imm wide => ⟨pins_of_wide rfl (.inr wide), pins_of_wide rfl (.inr wide), pins_of_wide rfl (.inr wide)⟩,
    fun op imm wide => pins_of_wide rfl (.inl wide), ?_, ?_, ?_, rfl⟩
  all_goals exact pins_of_fits rfl (by decide) (by decide)

end Sys2Proof
end

section
/-! PROOFS. What a command makes of (S, seeded), whether it has a response, and what it leaves unchanged
(40_control.md R80, 60_exceptions.md R131, R136). -/

namespace Sys2Proof.Machine

open Sys2Proof.Safety

/-! ### (S, seeded) and the response after a command -/

theorem drawnBy_gen (reduce : Word → Word) (g : Option Word) : (drawnBy reduce g).1 = g.map weylStep := by
  cases g <;> rfl

theorem drawnBy_response_isSome (reduce : Word → Word) (g : Option Word) : (drawnBy reduce g).2.isSome = true := by
  cases g <;> rfl

/-- NEXT_BND with a valid bound draws, and reduces by the bound. -/
theorem execute_nextBnd_of_ne_zero {n : Word} (hn : n ≠ 0#64) (g : Option Word) :
    execute (Instr.nextBnd n).op (Instr.nextBnd n).arg g = drawnBy (fun raw => raw % n) g := if_neg hn

/-- What each command makes of (S, seeded). -/
theorem execute_gen (i : Instr) (g : Option Word) :
    (execute i.op i.arg g).1 =
      if isSeed i = true then some i.arg else if isDrawing i = true then g.map weylStep else g := by
  cases i with
  | nextRaw _ => exact drawnBy_gen (fun raw => raw) g
  | nextBnd n =>
    by_cases hn : n = 0#64
    · subst hn; rfl
    · rw [execute_nextBnd_of_ne_zero hn, isDrawing_nextBnd_of_ne_zero hn]
      exact drawnBy_gen _ g
  | nextFlt _ => exact drawnBy_gen (outputMux .float) g
  | nop _ | seed _ | reservedOp5 _ | reservedOp6 _ | reservedOp7 _ => rfl

/-- Every command but NOP has a response. -/
theorem execute_response_isSome (i : Instr) (g : Option Word) :
    (execute i.op i.arg g).2.isSome = isAnswered i := by
  cases i with
  | nextRaw _ => exact drawnBy_response_isSome (fun raw => raw) g
  | nextBnd n =>
    by_cases hn : n = 0#64
    · subst hn; rfl
    · rw [execute_nextBnd_of_ne_zero hn]
      exact drawnBy_response_isSome _ g
  | nextFlt _ => exact drawnBy_response_isSome (outputMux .float) g
  | nop _ | seed _ | reservedOp5 _ | reservedOp6 _ | reservedOp7 _ => rfl

/-- A response that reports an error has data 0 (60_exceptions.md R131). -/
theorem execute_response_ok (i : Instr) (g : Option Word) {r : Word × ErrCode}
    (h : (execute i.op i.arg g).2 = some r) : responseOk (toResponse r) := by
  rcases execute_fails_or_succeeds i g with failed | ⟨-, succeeded⟩
  · rw [failed] at h
    cases h
    exact .inr rfl
  · have noError : r.2 = .none := succeeded r h
    exact .inl (by rw [toResponse, noError, ErrCode.bits])

/-- Settles O16: `exec` is a total function of the instruction and the state. -/
theorem commandsNeverStop : Obligations.CommandsNeverStop :=
  fun i s => ⟨_, exec_eq_execute i s⟩

/-- Settles O17: a command changes what `afterExecute` changes, and `execute` says for which commands. -/
theorem commandsKeepEverythingElse : Obligations.CommandsKeepEverythingElse := by
  intro i s t run
  rw [exec_eq_execute] at run
  cases run
  refine ⟨rfl, rfl, rfl, rfl, rfl, fun notSeed notDrawing => ?gen,
    ((execute i.op i.arg s.gen).2.map toResponse).toList, ?queue, ?count⟩
  case gen => simp [execute_gen, notSeed, notDrawing]
  case queue => cases h : (execute i.op i.arg s.gen).2 <;> simp [h]
  case count =>
    rw [← execute_response_isSome i s.gen]
    cases (execute i.op i.arg s.gen).2 <;> rfl

end Sys2Proof.Machine
end

section
/-! PROOFS. What one edge does, said once as a function of the ports and the state, where an edge stops, and which
edges write S (10_state.md R20 to R26, 70_reset_and_hazards.md R150 to R160). -/

namespace Sys2Proof.Machine

open Sys2Proof.Safety

/-! ### The edge as a function -/

/-- The queue `q` one edge later, with the response `a` of that edge, if any, at age 0. -/
def agedQueue (q : List InFlight) (a : Option Response) : List InFlight :=
  (q.map fun e => ⟨e.age + 1, e.rsp⟩) ++ (a.map (InFlight.mk 0)).toList

/-- The block at an edge that is no reset edge, when it has acted on the values `p` of its input ports and the
response port is still to be driven. -/
def acceptPins (p : Pins) (s : State) : State :=
  { beginEdge s with
    gen := (edgeEffect p s.gen).1
    inflight := agedQueue s.inflight (edgeEffect p s.gen).2 }

@[simp] theorem acceptPins_gen (p : Pins) (s : State) : (acceptPins p s).gen = (edgeEffect p s.gen).1 := rfl

@[simp] theorem acceptPins_inflight (p : Pins) (s : State) :
    (acceptPins p s).inflight = agedQueue s.inflight (edgeEffect p s.gen).2 := rfl

@[simp] theorem acceptPins_host (p : Pins) (s : State) : (acceptPins p s).host = s.host.tail := rfl

@[simp] theorem acceptPins_delivered (p : Pins) (s : State) :
    (acceptPins p s).delivered = s.delivered ++ portResponse s := rfl

/-- The block after an edge with the values `p` on its input ports, where they are defined. -/
def afterEdge (latency : Nat) (p : Pins) (s : State) : State :=
  if p.rst = some true then resetBlock (beginEdge s) else drivePort latency (acceptPins p s)

theorem afterEdge_reset (latency : Nat) {p : Pins} (h : p.rst = some true) (s : State) :
    afterEdge latency p s = resetBlock (beginEdge s) := if_pos h

theorem afterEdge_running (latency : Nat) {p : Pins} (h : p.rst ≠ some true) (s : State) :
    afterEdge latency p s = drivePort latency (acceptPins p s) := if_neg h

theorem edgeEffect_reset {p : Pins} (h : p.rst = some true) (g : Option Word) : edgeEffect p g = (none, none) := by
  simp [edgeEffect, h]

theorem edgeEffect_idle {p : Pins} (hr : p.rst = some false) (hv : p.cmdValid = some false) (g : Option Word) :
    edgeEffect p g = (g, none) := by
  simp [edgeEffect, hr, hv]

/-- With no command, the edge only begins. -/
theorem acceptPins_idle {p : Pins} (hr : p.rst = some false) (hv : p.cmdValid = some false) (s : State) :
    acceptPins p s = beginEdge s := by
  simp [acceptPins, edgeEffect_idle hr hv, agedQueue, beginEdge, consumePins, ageQueue, samplePort]

theorem edgeEffect_command (op : Op) (arg : Word) (g : Option Word) :
    edgeEffect (commandPins op arg) g = ((execute op arg g).1, (execute op arg g).2.map toResponse) := rfl

/-- The three kinds of defined input ports. -/
theorem definedPins_iff (p : Pins) :
    definedPins p = true ↔ p.rst = some true ∨ (p.rst = some false ∧ p.cmdValid = some false) ∨
      ∃ op arg, p = commandPins op arg := by
  constructor
  · intro h
    rcases p with ⟨rst, valid, op, arg⟩
    match rst, valid, op, arg, h with
    | some true, _, _, _, _ => exact .inl rfl
    | some false, some false, _, _, _ => exact .inr (.inl ⟨rfl, rfl⟩)
    | some false, some true, some op, some arg, _ => exact .inr (.inr ⟨op, arg, rfl⟩)
  · rintro (h | ⟨hr, hv⟩ | ⟨op, arg, rfl⟩)
    · simp [definedPins, h]
    · simp [definedPins, hr, hv]
    · rfl

/-- An accepted command has the effect of `execute` on its op and arg, and then the response port is driven. -/
theorem acceptCommand_eq (latency : Nat) (op : Op) (arg : Word) (s : State) :
    acceptCommand latency op arg s = .next (drivePort latency (afterExecute s (execute op arg s.gen))) := by
  rw [acceptCommand, decode_commandWord, exec_eq_execute, decodeFields_op, decodeFields_arg]

/-- With a command, the edge begins and the command is executed. -/
theorem acceptPins_command (op : Op) (arg : Word) (s : State) :
    acceptPins (commandPins op arg) s = afterExecute (beginEdge s) (execute op arg (beginEdge s).gen) := by
  rw [acceptPins, edgeEffect_command, agedQueue, Option.map_map]
  rfl

/-- An edge with defined inputs completes, in the state that `afterEdge` says. -/
theorem clockEdge_of_defined (latency : Nat) {s : State} (h : definedPins s.pins = true) :
    clockEdge latency s = .next (afterEdge latency s.pins s) := by
  rcases (definedPins_iff _).mp h with hr | ⟨hr, hv⟩ | ⟨op, arg, hp⟩
  · rw [clockEdge_reset latency hr, afterEdge_reset latency hr]
  · rw [clockEdge_idle latency hr hv, afterEdge_running latency (by simp [hr]), acceptPins_idle hr hv]
  · rw [clockEdge_command latency hp, acceptCommand_eq, hp, afterEdge_running latency (by simp [commandPins]),
      acceptPins_command]

/-- An edge answers a next state exactly where its inputs are defined. -/
theorem clockEdge_eq_next_iff {latency : Nat} {s t : State} :
    clockEdge latency s = .next t ↔ definedPins s.pins = true ∧ t = afterEdge latency s.pins s := by
  constructor
  · intro h
    have defined : definedPins s.pins = true := by
      rcases clockEdge_cases h with ⟨hr, -⟩ | ⟨hr, hv, -⟩ | ⟨op, arg, hp, -⟩
      · exact (definedPins_iff _).mpr (.inl hr)
      · exact (definedPins_iff _).mpr (.inr (.inl ⟨hr, hv⟩))
      · exact (definedPins_iff _).mpr (.inr (.inr ⟨op, arg, hp⟩))
    rw [clockEdge_of_defined latency defined] at h
    cases h
    exact ⟨defined, rfl⟩
  · rintro ⟨defined, rfl⟩
    exact clockEdge_of_defined latency defined

theorem step_of_defined {s : State} (h : definedPins s.pins = true) :
    step s = .next (afterEdge Config.latency s.pins s) := clockEdge_of_defined _ h

@[simp] theorem afterEdge_gen (latency : Nat) (p : Pins) (s : State) :
    (afterEdge latency p s).gen = (edgeEffect p s.gen).1 := by
  by_cases h : p.rst = some true
  · rw [afterEdge_reset latency h, edgeEffect_reset h, resetBlock_gen]
  · rw [afterEdge_running latency h, drivePort_gen, acceptPins_gen]

@[simp] theorem afterEdge_host (latency : Nat) (p : Pins) (s : State) :
    (afterEdge latency p s).host = s.host.tail := by
  by_cases h : p.rst = some true
  · rw [afterEdge_reset latency h, resetBlock_host, beginEdge_host]
  · rw [afterEdge_running latency h, drivePort_host, acceptPins_host]

/-- Every edge samples the response port. -/
@[simp] theorem afterEdge_delivered (latency : Nat) (p : Pins) (s : State) :
    (afterEdge latency p s).delivered = s.delivered ++ portResponse s := by
  by_cases h : p.rst = some true
  · rw [afterEdge_reset latency h, resetBlock_delivered, beginEdge_delivered]
  · rw [afterEdge_running latency h, drivePort_delivered, acceptPins_delivered]

/-! ### Reset edges, and edges that run a command -/

/-- A reset edge leaves the reset state, the host's schedule and the record of responses apart. -/
theorem resetBlock_eq (s : State) :
    resetBlock s = { State.reset with host := s.host, delivered := s.delivered } := rfl

/-- Settles O35: the edge samples the port and resets. -/
theorem resetEdgeDeliversThePortResponse : Obligations.ResetEdgeDeliversThePortResponse := by
  intro s hr
  rw [step, clockEdge_reset _ hr, resetBlock_eq, beginEdge_host, beginEdge_delivered]

/-- The word of an instruction fits 67 bits, so that many bits of the table word or more keep it whole. -/
theorem encode_toNat_mod {nbits : Nat} (h : 67 ≤ nbits) (i : Instr) :
    (encode i).toNat % 2 ^ nbits = (encode i).toNat :=
  Nat.mod_eq_of_lt ((encode i).isLt.trans_le (Nat.pow_le_pow_right (by decide) h))

/-- The ports carry the op and arg of the word of an instruction. -/
theorem pinsOfNumber_encode (i : Instr) : pinsOfNumber (encode i).toNat = commandPins i.op i.arg := by
  have fits : commandNumberFits (encode i).toNat = true := decide_eq_true (encode i).isLt
  rw [pinsOfNumber, if_pos fits, BitVec.ofNat_toNat, BitVec.setWidth_eq, encode, opField_commandWord,
    argField_commandWord]

theorem decodeTableWord_encode {nbits : Nat} (h : 67 ≤ nbits) (i : Instr) :
    decodeTableWord nbits (encode i).toNat = some i := by
  rw [decodeTableWord, encode_toNat_mod h, decodeNumber_of_lt (encode i).isLt, BitVec.ofNat_toNat,
    BitVec.setWidth_eq, decode_encode]

/-- Settles O37: the edge accepts the command on the ports, and a table word puts its own command there. -/
theorem stepRunsTheDecodedCommand : Obligations.StepRunsTheDecodedCommand := by
  refine ⟨fun s i hp => ⟨_, exec_eq_execute i (beginEdge s), ?_⟩,
    fun s i nbits h => ⟨decodeTableWord_encode h i, ?_⟩⟩
  · rw [step, clockEdge_command _ hp, acceptCommand_eq]
  · rw [State.withFetchWord, present_pins, encode_toNat_mod h, pinsOfNumber_encode]

/-! ### Where the machine stops -/

theorem clockEdge_undefinedReset (latency : Nat) {s : State} (h : s.pins.rst = none) :
    clockEdge latency s = .refused .undefinedReset := by
  simp [clockEdge, h]

theorem clockEdge_undefinedValid (latency : Nat) {s : State} (hr : s.pins.rst = some false)
    (hv : s.pins.cmdValid = none) : clockEdge latency s = .refused .undefinedValid := by
  simp [clockEdge, hr, hv]

theorem clockEdge_undefinedCommand (latency : Nat) {s : State} (hr : s.pins.rst = some false)
    (hv : s.pins.cmdValid = some true) (h : s.pins.cmdOp = none ∨ s.pins.cmdArg = none) :
    clockEdge latency s = .refused .undefinedCommand := by
  cases hop : s.pins.cmdOp with
  | none => simp [clockEdge, hr, hv, hop]
  | some op =>
    have harg : s.pins.cmdArg = none := h.resolve_left (by simp [hop])
    simp [clockEdge, hr, hv, hop, harg]

/-- Input ports without the values an edge needs lack `rst`, or `cmd_valid`, or the op or arg of a command. -/
theorem undefinedPins_cases {p : Pins} (h : definedPins p ≠ true) :
    p.rst = none ∨ (p.rst = some false ∧ p.cmdValid = none) ∨
      (p.rst = some false ∧ p.cmdValid = some true ∧ (p.cmdOp = none ∨ p.cmdArg = none)) := by
  rcases p with ⟨rst, valid, op, arg⟩
  match rst, valid, op, arg with
  | none, _, _, _ => exact .inl rfl
  | some true, _, _, _ => exact absurd rfl h
  | some false, none, _, _ => exact .inr (.inl ⟨rfl, rfl⟩)
  | some false, some false, _, _ => exact absurd rfl h
  | some false, some true, none, _ => exact .inr (.inr ⟨rfl, rfl, .inl rfl⟩)
  | some false, some true, some _, none => exact .inr (.inr ⟨rfl, rfl, .inr rfl⟩)
  | some false, some true, some _, some _ => exact absurd rfl h

/-- An edge completes or is refused. -/
theorem clockEdge_ne_fault (latency : Nat) (s : State) (f : Fault) : clockEdge latency s ≠ .fault f := by
  by_cases defined : definedPins s.pins = true
  · simp [clockEdge_of_defined latency defined]
  · rcases undefinedPins_cases defined with hr | ⟨hr, hv⟩ | ⟨hr, hv, h⟩
    · simp [clockEdge_undefinedReset latency hr]
    · simp [clockEdge_undefinedValid latency hr hv]
    · simp [clockEdge_undefinedCommand latency hr hv h]

/-- Settles O38: defined inputs complete, and each kind of undefined input is refused by its name. -/
theorem stepStopsOnlyOnUndefinedInputs : Obligations.StepStopsOnlyOnUndefinedInputs :=
  fun s => ⟨fun defined => ⟨_, step_of_defined defined⟩, clockEdge_undefinedReset _, clockEdge_undefinedValid _,
    clockEdge_undefinedCommand _, clockEdge_ne_fault _ s⟩

/-! ### Who writes S -/

/-- The op values of the commands that draw. -/
theorem op_of_isDrawing {i : Instr} (h : isDrawing i = true) : i.op = 0b010#3 ∨ i.op = 0b011#3 ∨ i.op = 0b100#3 := by
  cases i with
  | nextRaw _ => exact .inl rfl
  | nextBnd _ => exact .inr (.inl rfl)
  | nextFlt _ => exact .inr (.inr rfl)
  | nop _ | seed _ | reservedOp5 _ | reservedOp6 _ | reservedOp7 _ => cases h

theorem op_of_isSeed {i : Instr} (h : isSeed i = true) : i.op = 0b001#3 := by
  cases i with
  | seed _ => rfl
  | nop _ | nextRaw _ | nextBnd _ | nextFlt _ | reservedOp5 _ | reservedOp6 _ | reservedOp7 _ => cases h

/-- A command keeps (S, seeded), or it is SEED and loads its arg, or it is a NEXT command and takes a Weyl step. -/
theorem execute_gen_cases (op : Op) (arg : Word) (g : Option Word) :
    (execute op arg g).1 = g ∨ (op = 0b001#3 ∧ (execute op arg g).1 = some arg) ∨
      ∃ v, (op = 0b010#3 ∨ op = 0b011#3 ∨ op = 0b100#3) ∧ g = some v ∧ (execute op arg g).1 = some (weylStep v) := by
  have effect := execute_gen (decodeFields op arg) g
  rw [decodeFields_op, decodeFields_arg] at effect
  rw [effect]
  split_ifs with seed drawing
  · exact .inr (.inl ⟨by simpa using op_of_isSeed seed, rfl⟩)
  · cases g with
    | none => exact .inl rfl
    | some v => exact .inr (.inr ⟨v, by simpa using op_of_isDrawing drawing, rfl, rfl⟩)
  · exact .inl rfl

/-- Settles O39: a reset edge, an edge without a command, and the effect of each command on (S, seeded). -/
theorem onlySeedNextAndResetWriteS : Obligations.OnlySeedNextAndResetWriteS := by
  intro s t h
  obtain ⟨defined, rfl⟩ := clockEdge_eq_next_iff.mp h
  rw [afterEdge_gen]
  rcases (definedPins_iff _).mp defined with hr | ⟨hr, hv⟩ | ⟨op, arg, hp⟩
  · exact .inr (.inl ⟨hr, by rw [edgeEffect_reset hr]⟩)
  · exact .inl (by rw [edgeEffect_idle hr hv])
  · rw [hp, edgeEffect_command]
    rcases execute_gen_cases op arg s.gen with kept | ⟨rfl, loaded⟩ | ⟨v, next, hs, stepped⟩
    · exact .inl kept
    · exact .inr (.inr (.inl ⟨arg, rfl, loaded⟩))
    · exact .inr (.inr (.inr ⟨op, arg, v, rfl, next, hs, stepped⟩))

end Sys2Proof.Machine
end

section
/-! PROOFS. The invariant of the response pipeline (10_state.md R27, R28): every edge keeps it, reset edges establish
it, and it bounds the responses outstanding. -/

namespace Sys2Proof.Machine

open Sys2Proof.Safety

/-! ### The response pipeline -/

/-- The response of an edge has data 0 if it reports an error. -/
theorem edgeEffect_response_ok (p : Pins) (g : Option Word) {r : Response} (h : (edgeEffect p g).2 = some r) :
    responseOk r := by
  unfold edgeEffect at h
  split at h
  next op arg _ _ _ _ =>
    obtain ⟨d, hd, rfl⟩ := Option.map_eq_some_iff.mp h
    exact execute_response_ok (decodeFields op arg) g (by rwa [decodeFields_op, decodeFields_arg])
  all_goals cases h

/-- An empty pipeline with a clear port has the invariant. -/
theorem pipelineOk_of_quiet {s : State} (latency : Nat) (h : quiet s) : PipelineOk latency s := by
  obtain ⟨queue, valid, data, err⟩ := h
  constructor
  case inOrder => simp [queue]
  case notDue => simp [queue]
  case queueOk => simp [queue]
  case portOk => exact .inl err
  case idlePort => exact fun _ => ⟨data, err⟩

theorem quiet_resetBlock (s : State) : quiet (resetBlock s) := ⟨rfl, rfl, rfl, rfl⟩

/-- Clearing the port keeps the queue, which is in order if no entry of it is due. -/
theorem pipelineOk_setPort_none {latency : Nat} {s : State} (order : (s.inflight.map InFlight.age).Pairwise (· > ·))
    (notDue : ∀ e ∈ s.inflight, e.age + 1 < latency) (ok : ∀ e ∈ s.inflight, responseOk e.rsp) :
    PipelineOk latency (setPort s none) :=
  ⟨order, notDue, ok, .inl rfl, fun _ => ⟨rfl, rfl⟩⟩

/-- Driving the port takes the one entry out of an ordered queue that can be due, the oldest. -/
theorem pipelineOk_drivePort {latency : Nat} {s : State} (order : (s.inflight.map InFlight.age).Pairwise (· > ·))
    (inTime : ∀ e ∈ s.inflight, e.age < latency) (ok : ∀ e ∈ s.inflight, responseOk e.rsp) :
    PipelineOk latency (drivePort latency s) := by
  match queue : s.inflight with
  | [] =>
    rw [drivePort_nil latency queue]
    exact pipelineOk_setPort_none order (by simp [queue]) ok
  | e :: rest =>
    rw [queue] at order inTime ok
    obtain ⟨older, restOrder⟩ := List.pairwise_cons.mp order
    have younger : ∀ x ∈ rest, x.age < e.age := fun x hx => older _ (List.mem_map_of_mem hx)
    have eInTime : e.age < latency := inTime e List.mem_cons_self
    by_cases due : latency ≤ e.age + 1
    · rw [drivePort_due queue due]
      refine ⟨restOrder, fun x hx => ?_, fun x hx => ok x (List.mem_cons_of_mem e hx), ok e List.mem_cons_self,
        fun idle => by cases idle⟩
      have := younger x hx
      omega
    · rw [drivePort_notDue queue due]
      refine pipelineOk_setPort_none (queue ▸ order) (fun x hx => ?_) (queue ▸ ok)
      rcases List.mem_cons.mp (queue ▸ hx) with rfl | hx
      · omega
      · have := younger x hx
        omega

/-- What holds of the entries of before, one edge older, and of the new one holds of the whole aged queue. -/
theorem forall_mem_agedQueue {q : List InFlight} {a : Option Response} {P : InFlight → Prop}
    (aged : ∀ e ∈ q, P ⟨e.age + 1, e.rsp⟩) (added : ∀ r, a = some r → P ⟨0, r⟩) :
    ∀ e ∈ agedQueue q a, P e := by
  intro e he
  rcases List.mem_append.mp he with he | he
  · obtain ⟨x, hx, rfl⟩ := List.mem_map.mp he
    exact aged x hx
  · obtain ⟨r, hr, rfl⟩ := Option.map_eq_some_iff.mp (Option.mem_toList.mp he)
    exact added r hr

/-- Ageing keeps the order, and the new entry is younger than all others. -/
theorem pairwise_agedQueue {q : List InFlight} (a : Option Response)
    (order : (q.map InFlight.age).Pairwise (· > ·)) : ((agedQueue q a).map InFlight.age).Pairwise (· > ·) := by
  rw [List.pairwise_map] at order
  rw [agedQueue, List.pairwise_map, List.pairwise_append, List.pairwise_map]
  refine ⟨order.imp fun h => Nat.succ_lt_succ h, by cases a <;> simp, fun x hx y hy => ?_⟩
  obtain ⟨e, -, rfl⟩ := List.mem_map.mp hx
  obtain ⟨r, -, rfl⟩ := Option.map_eq_some_iff.mp (Option.mem_toList.mp hy)
  exact Nat.succ_pos _

/-- Every edge keeps the pipeline invariant, for every LATENCY of 1 or more. -/
theorem pipelineOk_afterEdge {latency : Nat} (pos : 1 ≤ latency) (p : Pins) {s : State} (h : PipelineOk latency s) :
    PipelineOk latency (afterEdge latency p s) := by
  by_cases hr : p.rst = some true
  · rw [afterEdge_reset latency hr]
    exact pipelineOk_of_quiet latency (quiet_resetBlock _)
  · rw [afterEdge_running latency hr]
    exact pipelineOk_drivePort (pairwise_agedQueue _ h.inOrder) (forall_mem_agedQueue h.notDue fun _ _ => pos)
      (forall_mem_agedQueue h.queueOk fun _ => edgeEffect_response_ok p s.gen)

theorem one_le_latency : 1 ≤ Config.latency := Nat.succ_pos _

/-- Settles O40: a step that answers a next state is an edge with defined inputs, and every edge keeps the
invariant. -/
theorem pipelineIsKeptByEveryStep : Obligations.PipelineIsKeptByEveryStep := by
  intro s t ok h
  obtain ⟨-, rfl⟩ := clockEdge_eq_next_iff.mp h
  exact pipelineOk_afterEdge one_le_latency s.pins ok

/-- Settles O41: the reset state and a block after a reset edge are quiet. -/
theorem pipelineHoldsAfterReset : Obligations.PipelineHoldsAfterReset := by
  refine ⟨pipelineOk_of_quiet _ ⟨rfl, rfl, rfl, rfl⟩, fun s t hr h => ?_⟩
  obtain ⟨-, rfl⟩ := clockEdge_eq_next_iff.mp h
  rw [afterEdge_reset _ hr]
  exact pipelineOk_of_quiet _ (quiet_resetBlock _)

theorem portResponse_length_le (s : State) : (portResponse s).length ≤ 1 := by
  rw [portResponse]
  split <;> simp

/-- Settles O42: the ages in the queue are distinct numbers below LATENCY - 1. -/
theorem atMostLatencyResponsesAreOutstanding : Obligations.AtMostLatencyResponsesAreOutstanding := by
  intro s ok
  have distinct : (s.inflight.map InFlight.age).Nodup := ok.inOrder.imp fun h => h.ne'
  have below : s.inflight.map InFlight.age ⊆ List.range (Config.latency - 1) := by
    intro a ha
    obtain ⟨e, he, rfl⟩ := List.mem_map.mp ha
    have := ok.notDue e he
    exact List.mem_range.mpr (by omega)
  have queue := (distinct.subperm below).length_le
  rw [List.length_map, List.length_range] at queue
  have port := portResponse_length_le s
  have := one_le_latency
  omega

end Sys2Proof.Machine
end

section
/-! PROOFS. The result of SEED and of each NEXT command, written out (40_control.md R82, 41_advance_mix.md R96,
42_accessors.md R111, R115), and the streams they make (41_advance_mix.md R98 to R101, 42_accessors.md R114). -/

namespace Sys2Proof.Machine

open Sys2Proof.Safety

/-! ### Single commands -/

/-- Settles O6: SEED writes S and responds, which touches two fields. -/
theorem seedLoadsItsArg : Obligations.SeedLoadsItsArg :=
  ⟨decode_commandWord 0b001#3, exec_seed⟩

/-- Settles O7: the shared body of the NEXT commands with the raw value selected. -/
theorem nextRawRespondsWithTheMix : Obligations.NextRawRespondsWithTheMix := by
  refine ⟨decode_commandWord 0b010#3, fun arg v s hs => ?_⟩
  rw [exec_nextRaw, nextValue_of_some _ hs]
  rfl

/-- The remainder unit, as the remainder on numbers. -/
theorem boundedInteger_eq_ofNat (raw n : Word) : boundedInteger raw n = BitVec.ofNat 64 (raw.toNat % n.toNat) := by
  rw [← boundedInteger_toNat, BitVec.ofNat_toNat, BitVec.setWidth_eq]

/-- Settles O8: the shared body with the remainder selected, which is the remainder on numbers. -/
theorem nextBndRespondsWithTheRemainder : Obligations.NextBndRespondsWithTheRemainder := by
  refine ⟨decode_commandWord 0b011#3, fun n v s hs hn => ?_⟩
  rw [exec_nextBnd_of_some hs hn, boundedInteger_eq_ofNat]
  rfl

/-- The mantissa, as the quotient on numbers. -/
theorem floatMantissa_eq_ofNat (raw : Word) : floatMantissa raw = BitVec.ofNat 53 (raw.toNat / 2 ^ 11) := by
  rw [← floatMantissa_toNat, BitVec.ofNat_toNat, BitVec.setWidth_eq]

/-- Settles O9: the shared body with the float selected, whose mantissa is the quotient on numbers. -/
theorem nextFltRespondsWithTheFloat : Obligations.NextFltRespondsWithTheFloat := by
  refine ⟨decode_commandWord 0b100#3, fun arg v s hs => ?_⟩
  rw [exec_nextFlt, nextValue_of_some _ hs, outputMux, floatMantissa_eq_ofNat]
  rfl

/-! ### The state sequence -/

theorem weylStep_bijective : Function.Bijective weylStep :=
  (Equiv.addRight goldenGamma).bijective

/-- Settles O22: the mixer maps only 0 to 0, and the Weyl step reaches 0 from one value. -/
theorem zeroIsMixedToZero : Obligations.ZeroIsMixedToZero := by
  refine ⟨round1_zero, round2_zero, round3_zero, mix64_zero, fun v => ?_⟩
  have zero : weylStep 0x61C8864680B583EB#64 = 0#64 := by decide
  rw [mix64_eq_zero_iff, ← zero]
  exact weylStep_bijective.injective.eq_iff

/-- k Weyl steps add k times GOLDEN_GAMMA. -/
theorem weylStep_iterate (k : Nat) (v : Word) : weylStep^[k] v = v + BitVec.ofNat 64 k * goldenGamma := by
  induction k with
  | zero => simp
  | succ k ih =>
    rw [Function.iterate_succ_apply', ih, weylStep, BitVec.ofNat_add, BitVec.add_mul, BitVec.one_mul,
      BitVec.add_assoc]

/-- GOLDEN_GAMMA is odd, so its multiples are all the 64-bit values, each once. -/
theorem mul_goldenGamma_bijective : Function.Bijective fun z : Word => z * goldenGamma :=
  mul_odd_bijective (by decide)

/-- From v, the one multiple of GOLDEN_GAMMA that reaches w. -/
theorem weylStep_iterate_eq_iff (v w : Word) (k : Nat) :
    weylStep^[k] v = w ↔ BitVec.ofNat 64 k * goldenGamma = w - v := by
  rw [weylStep_iterate, BitVec.add_comm, ← BitVec.eq_sub_iff_add_eq]

/-- Settles O25: k Weyl steps add k times an odd number, which is 0 mod 2^64 for k = 0 mod 2^64 alone. -/
theorem stateSequenceHasFullPeriod : Obligations.StateSequenceHasFullPeriod := by
  refine ⟨fun v k => ?_, fun v w => ?_⟩
  · have zero : 0#64 * goldenGamma = v - v := by rw [BitVec.zero_mul, BitVec.sub_self]
    rw [weylStep_iterate_eq_iff, ← zero, mul_goldenGamma_bijective.injective.eq_iff, ← BitVec.toNat_inj,
      BitVec.toNat_ofNat, BitVec.toNat_ofNat, Nat.zero_mod, Nat.dvd_iff_mod_eq_zero]
  · obtain ⟨z, hz⟩ := mul_goldenGamma_bijective.surjective (w - v)
    refine ⟨z.toNat, ⟨z.isLt, (weylStep_iterate_eq_iff v w _).mpr (by simpa using hz)⟩,
      fun k ⟨hk, reached⟩ => ?_⟩
    have same : BitVec.ofNat 64 k = z :=
      mul_goldenGamma_bijective.injective (((weylStep_iterate_eq_iff v w k).mp reached).trans hz.symm)
    rw [← same, BitVec.toNat_ofNat, Nat.mod_eq_of_lt hk]

/-! ### Runs of commands after SEED -/

/-- A command that is not SEED takes a seeded block one Weyl step on, or none. -/
theorem execute_gen_of_seeded {i : Instr} (notSeed : isSeed i = false) (v : Word) :
    (execute i.op i.arg (some v)).1 = some (weylStep^[if isDrawing i then 1 else 0] v) := by
  rw [execute_gen, notSeed]
  cases isDrawing i <;> rfl

/-- Commands without SEED take as many Weyl steps as there are NEXT commands with a valid bound. -/
theorem execList_weylSteps {cmds : List Instr} (noSeed : ∀ c ∈ cmds, isSeed c = false) {s : State} {v : Word}
    (hs : s.gen = some v) :
    ∃ t : State, execList cmds s = .next t ∧ t.gen = some (weylStep^[cmds.countP isDrawing] v) := by
  induction cmds generalizing s v with
  | nil => exact ⟨s, rfl, hs⟩
  | cons i is ih =>
    obtain ⟨notSeed, noSeed⟩ := List.forall_mem_cons.mp noSeed
    have first := exec_eq_execute i s
    rw [hs] at first
    obtain ⟨t, run, gen⟩ := ih noSeed (s := afterExecute s (execute i.op i.arg (some v)))
      (execute_gen_of_seeded notSeed v)
    refine ⟨t, (execList_cons first is).trans run, ?_⟩
    rw [gen, List.countP_cons, Function.iterate_add_apply]

/-- Settles O23: SEED sets S, and each further command takes one Weyl step or none. -/
theorem seededStateCountsSuccessfulNexts : Obligations.SeededStateCountsSuccessfulNexts := by
  intro v cmds s noSeed
  obtain ⟨t, run, gen⟩ := execList_weylSteps noSeed (s := respond (s.writeS v) 0#64 .none) (v := v) rfl
  exact ⟨t, (execList_cons (exec_seed v s) cmds).trans run, gen.trans (congrArg some (weylStep_iterate _ v))⟩

/-- The stream from S after one Weyl step is the stream from S without its first value. -/
theorem streamValue_weylStep (v : Word) (k : Nat) : streamValue (weylStep v) k = streamValue v (k + 1) := by
  rw [streamValue, streamValue, ← weylStep_iterate, ← weylStep_iterate, Function.iterate_succ_apply]

theorem streamValue_one (v : Word) : streamValue v 1 = mix64 (weylStep v) := by
  rw [streamValue, ← weylStep_iterate, Function.iterate_one]

/-- NEXT_RAW commands on a seeded block respond with the stream from S. -/
theorem execList_nextRaw (args : List Word) {s : State} {v : Word} (hs : s.gen = some v) :
    ∃ t : State, execList (args.map Instr.nextRaw) s = .next t ∧
      t.inflight = s.inflight ++ (List.range args.length).map fun j => ⟨0, ⟨streamValue v (j + 1), 0b00#2⟩⟩ := by
  induction args generalizing s v with
  | nil => exact ⟨s, rfl, by simp⟩
  | cons a as ih =>
    have first : exec (.nextRaw a) s = .next (respond (s.writeS (weylStep v)) (mix64 (weylStep v)) .none) := by
      rw [exec_nextRaw, nextValue_of_some _ hs, outputMux]
    obtain ⟨t, run, queue⟩ := ih (s := respond (s.writeS (weylStep v)) (mix64 (weylStep v)) .none)
      (v := weylStep v) rfl
    refine ⟨t, (execList_cons first _).trans run, ?_⟩
    rw [queue, respond_inflight, writeS_inflight, List.append_assoc, List.length_cons, List.range_succ_eq_map,
      List.map_cons, List.map_map, streamValue_one]
    simp only [streamValue_weylStep]
    rfl

/-- Settles O24: SEED is acknowledged, and the NEXT_RAW commands respond with the stream from v. -/
theorem rawStreamIsTheMixedWeylSequence : Obligations.RawStreamIsTheMixedWeylSequence := by
  intro v args s
  obtain ⟨t, run, queue⟩ := execList_nextRaw args (s := respond (s.writeS v) 0#64 .none) (v := v) rfl
  refine ⟨t, (execList_cons (exec_seed v s) _).trans run, ?_⟩
  rw [queue, respond_inflight, writeS_inflight, List.append_assoc]
  rfl

/-! ### The bias of NEXT_BND -/

/-- The raw output after the Weyl step takes every 64-bit value once. -/
theorem rawOutput_bijective : Function.Bijective fun v : Word => mix64 (weylStep v) :=
  mix64_bijective.comp weylStep_bijective

/-- A residue r below n is the remainder of exactly the raw values congruent to it. -/
theorem boundedInteger_eq_iff {n r : Word} (hr : r.toNat < n.toNat) (raw : Word) :
    boundedInteger raw n = r ↔ raw.toNat ≡ r.toNat [MOD n.toNat] := by
  rw [← BitVec.toNat_inj, boundedInteger_toNat, Nat.ModEq, Nat.mod_eq_of_lt hr]

/-- The values of S that give the residue r stand one to one with the numbers below 2^64 congruent to r. -/
theorem residueNumber_bijective {n r : Word} (hr : r.toNat < n.toNat) :
    Function.Bijective
      fun v : { v : Word // outputMux (.bounded n) (mix64 (weylStep v)) = r } =>
        (⟨(mix64 (weylStep v)).toNat, (mix64 (weylStep v)).isLt, (boundedInteger_eq_iff hr _).mp v.2⟩ :
          { k : Nat // k < 2 ^ 64 ∧ k ≡ r.toNat [MOD n.toNat] }) := by
  constructor
  · intro v w same
    have raws : (mix64 (weylStep v)).toNat = (mix64 (weylStep w)).toNat := congrArg Subtype.val same
    exact Subtype.ext (rawOutput_bijective.injective (BitVec.eq_of_toNat_eq raws))
  · rintro ⟨k, hk, congruent⟩
    obtain ⟨v, raw⟩ := rawOutput_bijective.surjective (BitVec.ofNat 64 k)
    have number : (mix64 (weylStep v)).toNat = k := by
      rw [show mix64 (weylStep v) = BitVec.ofNat 64 k from raw, BitVec.toNat_ofNat, Nat.mod_eq_of_lt hk]
    exact ⟨⟨v, (boundedInteger_eq_iff hr _).mpr (number ▸ congruent)⟩, Subtype.ext number⟩

open scoped Count in
/-- As many values of S give the residue r as there are numbers below 2^64 congruent to r. -/
theorem card_residue_eq_count {n r : Word} (hr : r.toNat < n.toNat) :
    Fintype.card { v : Word // outputMux (.bounded n) (mix64 (weylStep v)) = r } =
      Nat.count (· ≡ r.toNat [MOD n.toNat]) (2 ^ 64) := by
  rw [Nat.count_eq_card_fintype]
  exact Fintype.card_of_bijective (residueNumber_bijective hr)

/-- Settles O28: raw values and values of S correspond one to one, so the count is that of the numbers below 2^64. -/
theorem boundedBiasIsThatOfTheRemainder : Obligations.BoundedBiasIsThatOfTheRemainder := by
  intro n r _ hr
  rw [card_residue_eq_count hr, Nat.count_modEq_card _ (Nat.zero_lt_of_lt hr), Nat.mod_eq_of_lt hr]

end Sys2Proof.Machine
end

section
/-! PROOFS. The fields of a NEXT_FLT result (42_accessors.md R117) and its corner cases (R115). -/

namespace Sys2Proof.Machine

/-! ### The fields of a pattern -/

section
variable (b : BitVec 11) (f : BitVec 52)

theorem sign_of_fields : (0#1 ++ b ++ f).getLsbD 63 = false := by
  rw [BitVec.getLsbD_append, BitVec.getLsbD_append]
  rfl

theorem exponent_of_fields : (0#1 ++ b ++ f).extractLsb' 52 11 = b := by
  rw [BitVec.extractLsb'_append_eq_of_le (le_refl 52)]
  exact BitVec.extractLsb'_append_eq_right

end

/-- Settles O30: the pattern has sign 0 and the biased exponent e + 970, where e is at most 52. -/
theorem floatResultIsPositiveNormalOrZero : Obligations.FloatResultIsPositiveNormalOrZero := by
  intro m hm
  obtain ⟨he, -, -⟩ := highestSetBit_bounds hm
  rw [f64Bits, if_neg hm, exponent_of_fields, biasedExponent_toNat he]
  exact ⟨sign_of_fields _ _, by omega, by omega⟩

/-! ### Corner cases -/

theorem outputMux_float_of_mantissa {raw : Word} {m : BitVec 53} (h : raw.toNat / 2 ^ 11 = m.toNat) :
    outputMux .float raw = f64Bits m := by
  rw [outputMux, BitVec.eq_of_toNat_eq ((floatMantissa_toNat raw).trans h)]

/-- The mantissa is raw[63:11]. -/
theorem floatMantissa_eq_extractLsb' (raw : Word) : floatMantissa raw = raw.extractLsb' 11 53 := by
  apply BitVec.eq_of_toNat_eq
  have bound := raw.isLt
  rw [floatMantissa_toNat, BitVec.extractLsb'_toNat, Nat.shiftRight_eq_div_pow]
  omega

/-- No mantissa has the pattern of 1.0, whose biased exponent is 1023. -/
theorem f64Bits_ne_one (m : BitVec 53) : f64Bits m ≠ 0x3FF0000000000000#64 := by
  intro one
  by_cases hm : m = 0#53
  · subst hm
    exact absurd one (by decide)
  · obtain ⟨-, -, exponent⟩ := floatResultIsPositiveNormalOrZero m hm
    rw [one] at exponent
    exact absurd exponent (by decide)

/-- Settles O32: the smallest and the largest mantissa, the exponent of 1.0, and the bits the mantissa reads. -/
theorem floatCornerCases : Obligations.FloatCornerCases := by
  refine ⟨fun raw small => ?_, fun raw large => ?_, fun raw => f64Bits_ne_one _, fun raw raw' same => ?_⟩
  · have mantissa : raw.toNat / 2 ^ 11 = (0#53).toNat := by
      show raw.toNat / 2 ^ 11 = 0
      omega
    rw [outputMux_float_of_mantissa mantissa, f64Bits_zero]
  · have mantissa : raw.toNat / 2 ^ 11 = (BitVec.allOnes 53).toNat := by
      have := raw.isLt
      show raw.toNat / 2 ^ 11 = 2 ^ 53 - 1
      omega
    rw [outputMux_float_of_mantissa mantissa]
    decide
  · rw [outputMux, outputMux, floatMantissa_eq_extractLsb', floatMantissa_eq_extractLsb', same]

end Sys2Proof.Machine
end

section
/-! PROOFS. Runs of the block at edges with defined inputs: the state reached, the responses given so far, and the
responses that the host has sampled (70_reset_and_hazards.md R155 to R161, 41_advance_mix.md R90). -/

namespace Sys2Proof.Machine

open Sys2Proof.Safety

/-! ### A run as a function of the schedule -/

/-- The block after a list of edges. -/
def afterEdges (latency : Nat) : List Pins → State → State
  | [], s => s
  | p :: ps, s => afterEdges latency ps (afterEdge latency p s)

theorem afterEdges_append (latency : Nat) (ps qs : List Pins) (s : State) :
    afterEdges latency (ps ++ qs) s = afterEdges latency qs (afterEdges latency ps s) := by
  induction ps generalizing s with
  | nil => rfl
  | cons p ps ih => exact ih _

theorem schedule_afterEdge (latency n : Nat) (p : Pins) (s : State) :
    schedule n (afterEdge latency p s) = schedule n (consumePins s) :=
  schedule_congr n (afterEdge_host latency p s)

/-- A run completes where the inputs at all its edges are defined. -/
theorem run_of_defined (latency n : Nat) {s : State} (defined : ∀ p ∈ schedule n s, definedPins p = true) :
    Host.Core.run (coreAt latency) n s = .next (afterEdges latency (schedule n s) s) := by
  induction n generalizing s with
  | zero => rfl
  | succ n ih =>
    obtain ⟨first, rest⟩ := List.forall_mem_cons.mp defined
    rw [← schedule_afterEdge latency n s.pins s] at rest
    rw [run_succ (coreAt latency) n (clockEdge_of_defined latency first), ih rest, schedule_afterEdge]
    rfl

/-- The machine is the one with its own LATENCY. -/
theorem core_eq_coreAt : core = coreAt Config.latency := rfl

theorem run_core_of_defined (n : Nat) {s : State} (defined : ∀ p ∈ schedule n s, definedPins p = true) :
    Host.Core.run core n s = .next (afterEdges Config.latency (schedule n s) s) :=
  run_of_defined Config.latency n defined

@[simp] theorem afterEdges_gen (latency : Nat) (ps : List Pins) (s : State) :
    (afterEdges latency ps s).gen = genAfter ps s.gen := by
  induction ps generalizing s with
  | nil => rfl
  | cons p ps ih => rw [afterEdges, ih, afterEdge_gen, genAfter]

@[simp] theorem afterEdges_host (latency : Nat) (ps : List Pins) (s : State) :
    (afterEdges latency ps s).host = s.host.drop ps.length := by
  induction ps generalizing s with
  | nil => rfl
  | cons p ps ih => rw [afterEdges, ih, afterEdge_host, List.drop_tail, List.length_cons]

/-- Settles O43: a run is the edges' effects one after the other. -/
theorem commandsTakeEffectInOrder : Obligations.CommandsTakeEffectInOrder := by
  intro n s defined
  exact ⟨_, run_core_of_defined n defined, afterEdges_gen _ _ _, by rw [afterEdges_host, schedule_length]⟩

/-! ### The responses given so far -/

/-- The first value of a mapped and filtered list, if there is one, comes first. -/
theorem filterMap_cons_eq_toList_append {α β : Type} (f : α → Option β) (x : α) (xs : List α) :
    (x :: xs).filterMap f = (f x).toList ++ xs.filterMap f := by
  cases h : f x <;> simp [h]

theorem rst_of_runningPins {p : Pins} (h : runningPins p = true) : p.rst ≠ some true := by
  simp only [runningPins, Bool.and_eq_true, beq_iff_eq] at h
  simp [h.2]

theorem definedPins_of_runningPins {p : Pins} (h : runningPins p = true) : definedPins p = true :=
  (Bool.and_eq_true_iff.mp h).1

/-- Ageing changes no response. -/
theorem map_rsp_agedQueue (q : List InFlight) (a : Option Response) :
    (agedQueue q a).map InFlight.rsp = q.map InFlight.rsp ++ a.toList := by
  cases a <;> simp [agedQueue]

/-- An edge that is no reset edge loses no response and adds that of its command. -/
theorem issued_afterEdge (latency : Nat) {p : Pins} (h : p.rst ≠ some true) (s : State) :
    issued (afterEdge latency p s) = issued s ++ (edgeEffect p s.gen).2.toList := by
  rw [afterEdge_running latency h, issued_drivePort, acceptPins_delivered, acceptPins_inflight, map_rsp_agedQueue,
    issued, ← List.append_assoc]

theorem issued_afterEdges (latency : Nat) {ps : List Pins} (running : ∀ p ∈ ps, runningPins p = true) (s : State) :
    issued (afterEdges latency ps s) = issued s ++ (answers ps s.gen).reduceOption := by
  induction ps generalizing s with
  | nil => simp [afterEdges, answers]
  | cons p ps ih =>
    obtain ⟨first, rest⟩ := List.forall_mem_cons.mp running
    rw [afterEdges, ih rest, issued_afterEdge latency (rst_of_runningPins first), afterEdge_gen, answers,
      List.append_assoc]
    exact congrArg _ (filterMap_cons_eq_toList_append id _ _).symm

/-- Settles O46: no edge without a reset loses a response, whatever LATENCY is. -/
theorem responsesDoNotDependOnLatency : Obligations.ResponsesDoNotDependOnLatency := by
  intro latency n s _ running
  exact ⟨_, run_of_defined latency n fun p hp => definedPins_of_runningPins (running p hp),
    issued_afterEdges latency running s, afterEdges_gen latency _ s⟩

/-! ### The responses still to be sampled -/

/-- The responses accepted and not yet sampled, with the edges since their acceptance: the one on the port, whose
sample edge is the coming one, and those in flight. -/
def pending (latency : Nat) (s : State) : List InFlight :=
  (portResponse s).map (InFlight.mk (latency - 1)) ++ s.inflight

/-- Driving the port moves an entry from the queue to the port when its sample edge is the coming one, so that
what is pending stays as it is. -/
theorem pending_drivePort {latency : Nat} {s : State} (inTime : ∀ e ∈ s.inflight, e.age < latency) :
    pending latency (drivePort latency s) = s.inflight := by
  obtain clear | ⟨e, rest, queue, due, moved⟩ := drivePort_cases latency s
  · rw [clear, pending, portResponse_setPort]
    rfl
  · have age : latency - 1 = e.age := by
      have := inTime e (queue ▸ List.mem_cons_self)
      omega
    rw [moved, pending, portResponse_setPort, age, queue]
    rfl

/-- A reset edge leaves nothing to be sampled later. -/
theorem pending_afterEdge_reset (latency : Nat) {p : Pins} (h : p.rst = some true) (s : State) :
    pending latency (afterEdge latency p s) = [] := by
  rw [afterEdge_reset latency h]
  rfl

section
variable {latency : Nat} (pos : 1 ≤ latency)
include pos

/-- After any other edge, what was in flight is pending, one edge older, and so is the response of the edge. -/
theorem pending_afterEdge_running {p : Pins} (h : p.rst ≠ some true) {s : State} (ok : PipelineOk latency s) :
    pending latency (afterEdge latency p s) = agedQueue s.inflight (edgeEffect p s.gen).2 := by
  rw [afterEdge_running latency h]
  exact pending_drivePort (forall_mem_agedQueue ok.notDue fun _ _ => pos)

theorem age_lt_of_mem_pending {s : State} (ok : PipelineOk latency s) :
    ∀ e ∈ pending latency s, e.age < latency := by
  intro e he
  rcases List.mem_append.mp he with he | he
  · obtain ⟨r, -, rfl⟩ := List.mem_map.mp he
    exact Nat.sub_one_lt_of_le pos le_rfl
  · exact Nat.lt_of_succ_lt (ok.notDue e he)

theorem pipelineOk_afterEdges (ps : List Pins) {s : State} (ok : PipelineOk latency s) :
    PipelineOk latency (afterEdges latency ps s) := by
  induction ps generalizing s with
  | nil => exact ok
  | cons p ps ih => exact ih (pipelineOk_afterEdge pos p ok)

end

/-! ### Which responses are sampled -/

/-- The edges `ps` hold the edge number `left` from now, counted from 1, and no reset edge before it. -/
def reaches (left : Nat) (ps : List Pins) : Bool :=
  decide (left ≤ ps.length) && (ps.take (left - 1)).all fun p => p.rst != some true

theorem reaches_nil {left : Nat} (h : 0 < left) : reaches left [] = false := by
  simp [reaches, Nat.pos_iff_ne_zero.mp h]

theorem reaches_one_cons (p : Pins) (ps : List Pins) : reaches 1 (p :: ps) = true := by
  simp [reaches]

theorem reaches_succ_cons {left : Nat} (h : 0 < left) (p : Pins) (ps : List Pins) :
    reaches (left + 1) (p :: ps) = (p.rst != some true && reaches left ps) := by
  obtain ⟨k, rfl⟩ := Nat.exists_eq_add_of_lt h
  simp only [reaches, List.length_cons, Nat.add_sub_cancel, List.take_succ_cons, List.all_cons, Nat.zero_add,
    Nat.add_le_add_iff_right]
  exact Bool.and_left_comm _ _ _

/-- The responses among `entries` that the host samples at the edges `ps`. -/
def sampledOf (latency : Nat) (ps : List Pins) (entries : List InFlight) : List Response :=
  (entries.filter fun e => reaches (latency - e.age) ps).map InFlight.rsp

theorem sampledOf_append (latency : Nat) (ps : List Pins) (xs ys : List InFlight) :
    sampledOf latency ps (xs ++ ys) = sampledOf latency ps xs ++ sampledOf latency ps ys := by
  simp [sampledOf]

/-- Before any edge, nothing is sampled. -/
theorem sampledOf_no_edges {latency : Nat} {entries : List InFlight} (inTime : ∀ e ∈ entries, e.age < latency) :
    sampledOf latency [] entries = [] := by
  have none : ∀ e ∈ entries, ¬ reaches (latency - e.age) [] = true := fun e he => by
    simp [reaches_nil (Nat.sub_pos_of_lt (inTime e he))]
  rw [sampledOf, List.filter_eq_nil_iff.mpr none, List.map_nil]

/-- An entry that is not due passes an edge unless it is a reset edge, and is one edge older then. -/
theorem reaches_cons_of_notDue {latency age : Nat} (notDue : age + 1 < latency) (p : Pins) (ps : List Pins) :
    reaches (latency - age) (p :: ps) = (p.rst != some true && reaches (latency - (age + 1)) ps) := by
  have left : latency - age = (latency - (age + 1)) + 1 := by omega
  rw [left, reaches_succ_cons (by omega)]

/-- A reset edge discards every entry that is not due. -/
theorem sampledOf_cons_reset {latency : Nat} {p : Pins} (h : p.rst = some true) (ps : List Pins) {q : List InFlight}
    (notDue : ∀ e ∈ q, e.age + 1 < latency) : sampledOf latency (p :: ps) q = [] := by
  have discarded : ∀ e ∈ q, ¬ reaches (latency - e.age) (p :: ps) = true := fun e he => by
    simp [reaches_cons_of_notDue (notDue e he), h]
  rw [sampledOf, List.filter_eq_nil_iff.mpr discarded, List.map_nil]

/-- Any other edge makes every entry that is not due one edge older. -/
theorem sampledOf_cons_running {latency : Nat} {p : Pins} (h : p.rst ≠ some true) (ps : List Pins)
    {q : List InFlight} (notDue : ∀ e ∈ q, e.age + 1 < latency) :
    sampledOf latency (p :: ps) q = sampledOf latency ps (q.map fun e => ⟨e.age + 1, e.rsp⟩) := by
  have older : ∀ e ∈ q, reaches (latency - e.age) (p :: ps) = reaches (latency - (e.age + 1)) ps := fun e he => by
    simp [reaches_cons_of_notDue (notDue e he), h]
  rw [sampledOf, sampledOf, List.filter_congr older, List.filter_map, List.map_map]
  rfl

/-- The responses sampled at the edges `p :: ps` are that of `p`, if it reaches its sample edge, and those sampled at
`ps`. -/
theorem sampledBy_cons (latency : Nat) (p : Pins) (ps : List Pins) (g : Option Word) :
    sampledBy latency (p :: ps) g =
      sampledOf latency ps ((edgeEffect p g).2.map (InFlight.mk 0)).toList ++
        sampledBy latency ps (edgeEffect p g).1 := by
  by_cases long : latency ≤ ps.length
  · have count : (p :: ps).length - latency = (ps.length - latency) + 1 := by
      rw [List.length_cons]; omega
    have first : (if survives latency (p :: ps) 0 then (answers (p :: ps) g)[0]?.join else none).toList =
        sampledOf latency ps ((edgeEffect p g).2.map (InFlight.mk 0)).toList := by
      have kept : survives latency (p :: ps) 0 = reaches latency ps := by simp [survives, reaches, long]
      rw [kept]
      cases h : (edgeEffect p g).2 <;> cases r : reaches latency ps <;> simp [sampledOf, answers, h, r]
    rw [sampledBy, count, List.range_succ_eq_map, filterMap_cons_eq_toList_append, first, List.filterMap_map]
    rfl
  · have short : reaches latency ps = false := by simp [reaches, long]
    have count : (p :: ps).length - latency = 0 := by rw [List.length_cons]; omega
    have count' : ps.length - latency = 0 := by omega
    rw [sampledBy, sampledBy, count, count']
    cases (edgeEffect p g).2 <;> simp [sampledOf, short]

section
variable {latency : Nat} (pos : 1 ≤ latency)
include pos

/-- The first edge samples the response on the port, whatever edge it is (70_reset_and_hazards.md R158). -/
theorem sampledOf_cons_port (p : Pins) (ps : List Pins) (rs : List Response) :
    sampledOf latency (p :: ps) (rs.map (InFlight.mk (latency - 1))) = rs := by
  have due : latency - (latency - 1) = 1 := Nat.sub_sub_self pos
  simp [sampledOf, due, reaches_one_cons, List.filter_map, Function.comp_def]

/-- After any edges, the host has sampled those pending responses and those new ones that reach their sample edge. -/
theorem delivered_afterEdges (ps : List Pins) {s : State} (ok : PipelineOk latency s) :
    (afterEdges latency ps s).delivered =
      s.delivered ++ sampledOf latency ps (pending latency s) ++ sampledBy latency ps s.gen := by
  induction ps generalizing s with
  | nil =>
    rw [sampledOf_no_edges (age_lt_of_mem_pending pos ok)]
    simp [afterEdges, sampledBy]
  | cons p ps ih =>
    have atPort : sampledOf latency (p :: ps) (pending latency s) =
        portResponse s ++ sampledOf latency (p :: ps) s.inflight := by
      rw [pending, sampledOf_append, sampledOf_cons_port pos]
    rw [afterEdges, ih (pipelineOk_afterEdge pos p ok), afterEdge_delivered, afterEdge_gen, atPort, sampledBy_cons]
    by_cases h : p.rst = some true
    · rw [pending_afterEdge_reset latency h, sampledOf_cons_reset h ps ok.notDue, edgeEffect_reset h]
      simp [sampledOf]
    · rw [pending_afterEdge_running pos h ok, agedQueue, sampledOf_append, sampledOf_cons_running h ps ok.notDue]
      simp only [List.append_assoc]

end

theorem portResponse_of_quiet {s : State} (h : quiet s) : portResponse s = [] := by
  obtain ⟨-, valid, -, -⟩ := h
  simp [portResponse, valid]

theorem pending_of_quiet (latency : Nat) {s : State} (h : quiet s) : pending latency s = [] := by
  rw [pending, portResponse_of_quiet h, h.1]
  rfl

/-- Settles O44: a quiet block has the pipeline invariant and nothing pending. -/
theorem responsesAreSampledAfterLatencyEdges : Obligations.ResponsesAreSampledAfterLatencyEdges := by
  intro n s idle defined
  refine ⟨_, run_core_of_defined n defined, ?_⟩
  rw [delivered_afterEdges one_le_latency _ (pipelineOk_of_quiet _ idle), pending_of_quiet _ idle]
  simp [sampledOf]

/-! ### A complete run -/

theorem issued_of_quiet {s : State} (h : quiet s) : issued s = s.delivered := by
  rw [issued, portResponse_of_quiet h, h.1]
  simp

/-- A block with nothing pending is quiet. -/
theorem quiet_of_pending_nil {latency : Nat} {s : State} (ok : PipelineOk latency s) (h : pending latency s = []) :
    quiet s := by
  obtain ⟨port, queue⟩ := List.append_eq_nil_iff.mp h
  have idle : s.rspValid = false := by
    by_contra valid
    simp [portResponse, valid] at port
  obtain ⟨data, err⟩ := ok.idlePort idle
  exact ⟨queue, idle, data, err⟩

/-- After `k` edges without a command, everything pending is `k` edges older. -/
theorem age_of_mem_pending_idle {latency : Nat} (pos : 1 ≤ latency) (k : Nat) {s : State} (ok : PipelineOk latency s)
    {m : Nat} (old : ∀ e ∈ pending latency s, m ≤ e.age) :
    ∀ e ∈ pending latency (afterEdges latency (List.replicate k idlePins) s), m + k ≤ e.age := by
  induction k generalizing s m with
  | zero => exact old
  | succ k ih =>
    have next : ∀ e ∈ pending latency (afterEdge latency idlePins s), m + 1 ≤ e.age := by
      rw [pending_afterEdge_running pos (by decide) ok]
      refine forall_mem_agedQueue (fun e he => ?_) (fun r hr => by cases hr)
      exact Nat.succ_le_succ (old e (List.mem_append_right _ he))
    rw [List.replicate_succ, afterEdges, ← Nat.add_assoc, Nat.add_right_comm]
    exact ih (pipelineOk_afterEdge pos idlePins ok) next

/-- LATENCY edges without a command leave the block quiet, because no pending response can be that old. -/
theorem quiet_afterEdges_idle {latency : Nat} (pos : 1 ≤ latency) {s : State} (ok : PipelineOk latency s) :
    quiet (afterEdges latency (List.replicate latency idlePins) s) := by
  have okAfter := pipelineOk_afterEdges pos (List.replicate latency idlePins) ok
  refine quiet_of_pending_nil okAfter (List.eq_nil_iff_forall_not_mem.mpr fun e he => ?_)
  have old := age_of_mem_pending_idle pos latency ok (m := 0) (fun _ _ => Nat.zero_le _) e he
  have young := age_lt_of_mem_pending pos okAfter e he
  omega

/-- The host's list, and then edges without a command. -/
theorem schedule_of_host (k : Nat) {ps : List Pins} {s : State} (h : s.host = ps) :
    schedule (ps.length + k) s = ps ++ List.replicate k idlePins := by
  induction ps generalizing s with
  | nil =>
    rw [List.length_nil, Nat.zero_add, List.nil_append]
    induction k generalizing s with
    | zero => rfl
    | succ k ih => rw [schedule, pins_of_host_nil h, ih (by simp [h]), List.replicate_succ]
  | cons p ps ih =>
    rw [List.length_cons, Nat.add_right_comm, schedule, pins_of_host_cons h, ih (by simp [h]), List.cons_append]

/-- Edges without a command keep (S, seeded). -/
theorem genAfter_idle (k : Nat) (g : Option Word) : genAfter (List.replicate k idlePins) g = g := by
  induction k with
  | zero => rfl
  | succ k ih => exact ih

/-- Edges without a command have no response. -/
theorem answers_idle (k : Nat) (g : Option Word) : (answers (List.replicate k idlePins) g).reduceOption = [] := by
  induction k with
  | zero => rfl
  | succ k ih => exact ih

/-- Settles O45: the edges of the schedule and LATENCY idle ones leave the block quiet, and then every response given
has been delivered. -/
theorem completeRunDeliversEveryResponse : Obligations.CompleteRunDeliversEveryResponse := by
  intro ps s idle host running
  have edges := schedule_of_host Config.latency host
  have runningAll : ∀ p ∈ ps ++ List.replicate Config.latency idlePins, runningPins p = true := by
    intro p hp
    rcases List.mem_append.mp hp with hp | hp
    · exact running p hp
    · rw [List.eq_of_mem_replicate hp]; rfl
  have ran := run_core_of_defined (ps.length + Config.latency) (s := s)
    (edges ▸ fun p hp => definedPins_of_runningPins (runningAll p hp))
  rw [edges] at ran
  have quietAfter : quiet (afterEdges Config.latency (ps ++ List.replicate Config.latency idlePins) s) := by
    rw [afterEdges_append]
    exact quiet_afterEdges_idle one_le_latency (pipelineOk_afterEdges one_le_latency ps (pipelineOk_of_quiet _ idle))
  refine ⟨_, ran, ?_, ?_, quietAfter⟩
  · rw [← issued_of_quiet quietAfter, issued_afterEdges _ runningAll, issued_of_quiet idle, answers_append,
      List.reduceOption_append, answers_idle, List.append_nil]
  · rw [afterEdges_gen, genAfter_append, genAfter_idle]

end Sys2Proof.Machine
end

section
/-! PROOFS. The block against the software generator, one command per call (30_encoding.md R64, R65, R69). -/

namespace Sys2Proof.Machine

open Sys2Proof.Safety

/-! ### The software formulas on the datapath -/

theorem mix64_toNat (x : Word) : (mix64 x).toNat = softwareMix x.toNat := by
  rw [mix64, round3_toNat, round2_toNat, round1_toNat]
  rfl

/-- The raw value of the block is that of the software generator. -/
theorem rawOutput_toNat (v : Word) :
    (mix64 (weylStep v)).toNat = softwareMix (softwareAdvance v.toNat) := by
  rw [mix64_toNat, weylStep_toNat, softwareAdvance]

/-! ### One call -/

/-- The command of a call completes on the block `s`, leaves S at the software state after the call, and responds with
the software result. -/
def AnswersCall (s : State) (i : Instr) (call : Nat × SoftwareResult) : Prop :=
  ∃ (t : State) (w : Word) (r : Response), exec i s = .next t ∧ t.gen = some w ∧ w.toNat = call.1 ∧
    t.inflight = s.inflight ++ [⟨0, r⟩] ∧ reports call.2 r

section
variable {s : State} {v : Word}

/-- A command that draws answers a call that advances the software generator, if its selection is the result. -/
theorem answersCall_of_nextValue (hs : s.gen = some v) {i : Instr} {sel : MuxSelect} {result : SoftwareResult}
    (run : exec i s = nextValue sel s)
    (reported : reports result ⟨outputMux sel (mix64 (weylStep v)), 0b00#2⟩) :
    AnswersCall s i (softwareAdvance v.toNat, result) :=
  ⟨_, weylStep v, _, run.trans (nextValue_of_some sel hs), rfl, weylStep_toNat v, rfl, reported⟩

theorem answersCall_construct (s : State) (state : Nat) (seed : Int) :
    AnswersCall s (SoftwareOp.construct seed).command (softwareCall (.construct seed) state) := by
  have reduced : (seedOfInteger seed).toNat = (seed % 2 ^ 64).toNat := by
    rw [← seedsAreReducedModulo seed, Int.toNat_natCast]
  exact ⟨_, seedOfInteger seed, _, exec_seed _ s, rfl, reduced, rfl, rfl⟩

theorem answersCall_nextRaw (hs : s.gen = some v) :
    AnswersCall s SoftwareOp.nextRaw.command (softwareCall .nextRaw v.toNat) :=
  answersCall_of_nextValue hs (exec_nextRaw 0#64 s) ⟨rfl, congrArg Nat.cast (rawOutput_toNat v)⟩

theorem answersCall_uniformFloat (hs : s.gen = some v) :
    AnswersCall s SoftwareOp.uniformFloat.command (softwareCall .uniformFloat v.toNat) := by
  refine answersCall_of_nextValue hs (exec_nextFlt 0#64 s) ⟨rfl, ?_⟩
  rw [binary64Value_outputMux_float, floatMantissa_toNat, rawOutput_toNat]

theorem softwareCall_bounded_of_pos {n : Int} (hn : 0 < n) (state : Nat) :
    softwareCall (.boundedInteger n) state =
      (softwareAdvance state, .integer ((softwareMix (softwareAdvance state) : Int) % n)) :=
  if_neg (not_le.mpr hn)

/-- A bound that is not positive is presented as 0, and both sides report the error and keep their state. -/
theorem answersCall_bounded_of_nonpos (hs : s.gen = some v) {n : Int} (hn : n ≤ 0) :
    AnswersCall s (boundCommand n) (softwareCall (.boundedInteger n) v.toNat) := by
  have call : softwareCall (.boundedInteger n) v.toNat = (v.toNat, .invalidArgument) := if_pos hn
  rw [boundCommand, if_pos hn, call]
  exact ⟨_, v, _, exec_nextBnd_zero s, hs, rfl, rfl, rfl⟩

/-- A positive bound of 64 bits is presented as it is. -/
theorem answersCall_bounded_of_lt (hs : s.gen = some v) {n : Int} (pos : 0 < n) (small : n < 2 ^ 64) :
    AnswersCall s (boundCommand n) (softwareCall (.boundedInteger n) v.toNat) := by
  have bound : ((BitVec.ofInt 64 n).toNat : Int) = n :=
    (seedsAreReducedModulo n).trans (Int.emod_eq_of_lt pos.le small)
  have valid : BitVec.ofInt 64 n ≠ 0#64 := fun zero => by
    rw [zero] at bound
    exact pos.ne bound
  rw [boundCommand, if_neg (not_le.mpr pos), if_pos small, softwareCall_bounded_of_pos pos]
  refine answersCall_of_nextValue hs (exec_nextBnd_of_ne_zero valid s) ⟨rfl, ?_⟩
  rw [outputMux, boundedInteger_toNat, Int.natCast_mod, bound, rawOutput_toNat]

/-- A wider bound is presented as NEXT_RAW, because no raw value reaches it. -/
theorem answersCall_bounded_of_wide (hs : s.gen = some v) {n : Int} (wide : 2 ^ 64 ≤ n) :
    AnswersCall s (boundCommand n) (softwareCall (.boundedInteger n) v.toNat) := by
  have pos : 0 < n := by omega
  have below : ((mix64 (weylStep v)).toNat : Int) < n := by
    have := (mix64 (weylStep v)).isLt
    omega
  rw [boundCommand, if_neg (not_le.mpr pos), if_neg (not_lt.mpr wide), softwareCall_bounded_of_pos pos]
  refine answersCall_of_nextValue hs (exec_nextRaw 0#64 s) ⟨rfl, ?_⟩
  rw [outputMux, ← rawOutput_toNat, Int.emod_eq_of_lt (Int.natCast_nonneg _) below]

/-- Every call is answered by its one command. -/
theorem answersCall_command (hs : s.gen = some v) (op : SoftwareOp) :
    AnswersCall s op.command (softwareCall op v.toNat) := by
  cases op with
  | construct seed => exact answersCall_construct s _ seed
  | nextRaw => exact answersCall_nextRaw hs
  | boundedInteger n =>
    rcases le_or_gt n 0 with nonpos | pos
    · exact answersCall_bounded_of_nonpos hs nonpos
    rcases lt_or_ge n (2 ^ 64) with small | wide
    · exact answersCall_bounded_of_lt hs pos small
    · exact answersCall_bounded_of_wide hs wide
  | uniformFloat => exact answersCall_uniformFloat hs

end

/-- Settles O49: each call is answered from the S that the calls before it left. -/
theorem blockRefinesTheSoftwareGenerator : Obligations.BlockRefinesTheSoftwareGenerator := by
  intro ops
  induction ops with
  | nil => exact fun v s hs => ⟨s, v, [], rfl, hs, rfl, by simp, .nil⟩
  | cons op ops ih =>
    intro v s hs
    obtain ⟨u, x, r, first, gen, state, queue, reported⟩ := answersCall_command hs op
    obtain ⟨t, w, rs, run, genEnd, stateEnd, queueEnd, reportedAll⟩ := ih x u gen
    rw [state] at stateEnd reportedAll
    refine ⟨t, w, r :: rs, (execList_cons first _).trans run, genEnd, stateEnd, ?_, .cons reported reportedAll⟩
    rw [queueEnd, queue, List.append_assoc]
    rfl

end Sys2Proof.Machine
end
